-- ==== Sys2Proof/Word.lean ====
section
/-! DEFINITION. The word types of the block (spec/00_scope.md R8, R16). -/

namespace Sys2Proof

/-- A 32-bit word: a register, a command word, a host transfer or a binary32 pattern (R8, R20, R80).
`bits` and `val` of R16 are inverse bijections, so one type serves for both views. -/
abbrev Word := BitVec 32

/-- One byte lane of a word (20_memory.md R62). -/
abbrev Byte := BitVec 8

/-- A register index 0..15 (30_encoding.md R81). -/
abbrev Reg := BitVec 4

/-- A unit index 0..15, or a bank index for BANKMIX (30_encoding.md R81). -/
abbrev UnitIx := BitVec 4

end Sys2Proof
end

