-- ==== Sys2Proof/Config.lean ====
section
/-! DEFINITION. What an implementation of the block fixes (spec/00_scope.md R7, R11, R15): the
parameters as a record of plain data, the reference configuration, and the values no rule states, as
constants without a body. The legal ranges are `Config.Legal` in Safety.lean. -/

namespace Sys2Proof

/-- A transcendental function of a block (R7, R15), one parameter for each of `tan32`, `sin32` and
`exp2_32`: the correctly rounded one of the reference configuration; a function the model is given, by
its value at each argument listed, the reference value standing at every other (binary32 has finitely many
patterns, so every function can be given); or an implementation's own of which nothing is known, told
apart by a number. The values R15 fixes in every configuration stand before all of them. -/
inductive FnUnit where
  | reference
  | given (points : List (Word × Word))
  | other (k : Nat)
  deriving DecidableEq, Repr

/-- The parameters of R7. `NUM_OSC` and `DELAY_CAPACITY` are derived (`Config.numOsc`,
`Config.capacity`). They are fixed for the life of the block (10_state.md R44). -/
structure Config where
  /-- `NUM_SVF` -/
  numSvf : Nat
  /-- `NUM_PINK` -/
  numPink : Nat
  /-- `NUM_BANK` -/
  numBank : Nat
  /-- `NUM_DELAY` -/
  numDelay : Nat
  /-- `LOG2_CAP` -/
  log2Cap : Nat
  /-- `PINK_RANGE`, binary32 -/
  pinkRange : Word
  /-- `RESET_HI`, binary32 -/
  resetHi : Word
  /-- `RESET_LO`, binary32 -/
  resetLo : Word
  /-- `NAN_RESULT`: the pattern of every NaN that arithmetic produces (R11) -/
  nanResult : Word
  /-- `tan32` (R15) -/
  tanFn : FnUnit
  /-- `sin32` (R15) -/
  sinFn : FnUnit
  /-- `exp2_32` (R15) -/
  exp2Fn : FnUnit
  deriving DecidableEq, Repr

namespace Config

/-- `NUM_OSC = 3 * NUM_BANK` (R7). -/
def numOsc (c : Config) : Nat := 3 * c.numBank

/-- `DELAY_CAPACITY = C = 2 ^ LOG2_CAP` words (R7). -/
def capacity (c : Config) : Nat := 2 ^ c.log2Cap

/-- The reference configuration: the default column of R7. -/
def reference : Config where
  numSvf := 4
  numPink := 1
  numBank := 1
  numDelay := 1
  log2Cap := 13
  pinkRange := 0x40A00000#32
  resetHi := 0x3F800000#32
  resetLo := 0x00000000#32
  nanResult := 0x7FC00000#32
  tanFn := .reference
  sinFn := .reference
  exp2Fn := .reference

/-- Free value (log entry 7): an implementation's own tangent where R15 states no value. -/
opaque freeTan (k : Nat) (v : Word) : Word

/-- Free value (log entry 7): an implementation's own sine where R15 states no value. -/
opaque freeSin (k : Nat) (v : Word) : Word

/-- Free value (log entry 7): an implementation's own power of two where R15 states no value. -/
opaque freeExp2 (k : Nat) (v : Word) : Word

/-- Free value (log entry 8): the sign of the zero that the reference `tan32` returns for `-0`. -/
opaque tanNegZeroSign : Bool

/-- Free value (log entry 8): the sign of the zero that the reference `sin32` returns for `-0`. -/
opaque sinNegZeroSign : Bool

end Config

end Sys2Proof
end

