-- ==== Sys2Proof/Syntax.lean ====
section
/-! DEFINITION. The commands of the block, one constructor per row of spec/opcode_table.json
(spec/30_encoding.md R80 to R82), and the causes of the one exception (spec/60_exceptions.md R201). -/

namespace Sys2Proof

/-- The filter type of SVFCFG, `mode` values 0, 1 and 2 (30_encoding.md R84). The reserved value 3
has no constructor: it is never held (10_state.md R33) and the decoder rejects it. -/
inductive FilterMode where
  | lowpass
  | highpass
  | bandpass
  deriving DecidableEq, Repr

/-- The causes of IllegalCommand (60_exceptions.md R201). -/
inductive Cause where
  | illegalOpcode
  | reservedField
  | reservedMode
  | unitRange
  deriving DecidableEq, Repr

/-- A command. Operands stand in the order of R90's table: destination, unit, sources. -/
inductive Instr where
  | nop
  | luih (rd : Reg) (imm16 : BitVec 16)
  | orlo (rd : Reg) (imm16 : BitVec 16)
  | mov (rd rs1 : Reg)
  | svfcfg (u : UnitIx) (mode : FilterMode) (rs1 rs2 rs3 : Reg)
  | svfproc (rd : Reg) (u : UnitIx) (rs1 : Reg)
  | pseed (u : UnitIx) (rs1 : Reg)
  | pnext (rd : Reg) (u : UnitIx)
  | white (rd : Reg) (u : UnitIx)
  | oscpitch (u : UnitIx) (rs1 : Reg)
  | oscstep (u : UnitIx) (rs1 : Reg)
  | oscrst (u : UnitIx) (rs1 : Reg)
  | oscsaw (rd : Reg) (u : UnitIx)
  | oscmode (u : UnitIx) (mode : BitVec 2)
  | bankmix (rd : Reg) (b : UnitIx) (rs1 rs2 : Reg)
  | dcfg (u : UnitIx) (rs1 : Reg)
  | dsetf (u : UnitIx) (rs1 : Reg)
  | dsetd (u : UnitIx) (rs1 : Reg)
  | dtick (rd : Reg) (u : UnitIx) (rs1 rs2 : Reg)
  | rescale (rd rs1 rs2 rs3 : Reg)
  | resolve (rd rs1 rs2 rs3 : Reg)
  | xfade (rd rs1 rs2 rs3 : Reg)
  deriving DecidableEq, Repr

end Sys2Proof
end

