-- ==== Sys2Proof/Decode.lean ====
section
/-! DEFINITION. The decoder of spec/30_encoding.md R92 (its first three checks, which no parameter
enters), the unit limits of R86 that its fourth check uses, and the encoder of R93. -/

namespace Sys2Proof

/-- What the first three checks of R92 answer for a command word. -/
inductive Decoded where
  | ok (i : Instr)
  | illegal (c : Cause)
  deriving DecidableEq, Repr

/-! ### Fields of a command word (R80) -/

/-- `op = c[31:26]`. -/
def opField (w : Word) : BitVec 6 := w.extractLsb' 26 6

/-- `rd = c[25:22]`. -/
def rdField (w : Word) : Reg := w.extractLsb' 22 4

/-- `rs1 = c[21:18]`. -/
def rs1Field (w : Word) : Reg := w.extractLsb' 18 4

/-- `rs2 = c[17:14]`. -/
def rs2Field (w : Word) : Reg := w.extractLsb' 14 4

/-- `rs3 = c[13:10]`. -/
def rs3Field (w : Word) : Reg := w.extractLsb' 10 4

/-- `u = c[9:6]`. -/
def unitField (w : Word) : UnitIx := w.extractLsb' 6 4

/-- `mode = c[1:0]`. -/
def modeField (w : Word) : BitVec 2 := w.extractLsb' 0 2

/-- `imm16 = c[15:0]`. -/
def imm16Field (w : Word) : BitVec 16 := w.extractLsb' 0 16

/-- The second check of R92: every bit under the row's mask equals the row's match (R83). -/
def checkReserved (w mask pattern : Word) (rest : Decoded) : Decoded :=
  if w &&& mask = pattern then rest else .illegal .reservedField

/-- The third check of R92, with the mode values of R84. -/
def decodeSvfcfg (w : Word) : Decoded :=
  match (modeField w).toNat with
  | 0 => .ok (.svfcfg (unitField w) .lowpass (rs1Field w) (rs2Field w) (rs3Field w))
  | 1 => .ok (.svfcfg (unitField w) .highpass (rs1Field w) (rs2Field w) (rs3Field w))
  | 2 => .ok (.svfcfg (unitField w) .bandpass (rs1Field w) (rs2Field w) (rs3Field w))
  | _ => .illegal .reservedMode

/-- Checks 1 to 3 of the decoder of R92 over the opcode map of R82, total on every 32-bit word. -/
def decode (w : Word) : Decoded :=
  match (opField w).toNat with
  | 0x00 => checkReserved w 0xFFFFFFFF#32 0x00000000#32 (.ok .nop)
  | 0x01 => checkReserved w 0xFC3F0000#32 0x04000000#32 (.ok (.luih (rdField w) (imm16Field w)))
  | 0x02 => checkReserved w 0xFC3F0000#32 0x08000000#32 (.ok (.orlo (rdField w) (imm16Field w)))
  | 0x03 => checkReserved w 0xFC03FFFF#32 0x0C000000#32 (.ok (.mov (rdField w) (rs1Field w)))
  | 0x08 => checkReserved w 0xFFC0003C#32 0x20000000#32 (decodeSvfcfg w)
  | 0x09 => checkReserved w 0xFC03FC3F#32 0x24000000#32
      (.ok (.svfproc (rdField w) (unitField w) (rs1Field w)))
  | 0x10 => checkReserved w 0xFFC3FC3F#32 0x40000000#32 (.ok (.pseed (unitField w) (rs1Field w)))
  | 0x11 => checkReserved w 0xFC3FFC3F#32 0x44000000#32 (.ok (.pnext (rdField w) (unitField w)))
  | 0x12 => checkReserved w 0xFC3FFC3F#32 0x48000000#32 (.ok (.white (rdField w) (unitField w)))
  | 0x18 => checkReserved w 0xFFC3FC3F#32 0x60000000#32 (.ok (.oscpitch (unitField w) (rs1Field w)))
  | 0x19 => checkReserved w 0xFFC3FC3F#32 0x64000000#32 (.ok (.oscstep (unitField w) (rs1Field w)))
  | 0x1A => checkReserved w 0xFFC3FC3F#32 0x68000000#32 (.ok (.oscrst (unitField w) (rs1Field w)))
  | 0x1B => checkReserved w 0xFC3FFC3F#32 0x6C000000#32 (.ok (.oscsaw (rdField w) (unitField w)))
  | 0x1C => checkReserved w 0xFFFFFC3C#32 0x70000000#32 (.ok (.oscmode (unitField w) (modeField w)))
  | 0x1D => checkReserved w 0xFC003C3F#32 0x74000000#32
      (.ok (.bankmix (rdField w) (unitField w) (rs1Field w) (rs2Field w)))
  | 0x20 => checkReserved w 0xFFC3FC3F#32 0x80000000#32 (.ok (.dcfg (unitField w) (rs1Field w)))
  | 0x21 => checkReserved w 0xFFC3FC3F#32 0x84000000#32 (.ok (.dsetf (unitField w) (rs1Field w)))
  | 0x22 => checkReserved w 0xFFC3FC3F#32 0x88000000#32 (.ok (.dsetd (unitField w) (rs1Field w)))
  | 0x23 => checkReserved w 0xFC003C3F#32 0x8C000000#32
      (.ok (.dtick (rdField w) (unitField w) (rs1Field w) (rs2Field w)))
  | 0x28 => checkReserved w 0xFC0003FF#32 0xA0000000#32
      (.ok (.rescale (rdField w) (rs1Field w) (rs2Field w) (rs3Field w)))
  | 0x29 => checkReserved w 0xFC0003FF#32 0xA4000000#32
      (.ok (.resolve (rdField w) (rs1Field w) (rs2Field w) (rs3Field w)))
  | 0x2A => checkReserved w 0xFC0003FF#32 0xA8000000#32
      (.ok (.xfade (rdField w) (rs1Field w) (rs2Field w) (rs3Field w)))
  | _ => .illegal .illegalOpcode

/-- The limit on the unit index of a command and the index it names (R86). -/
def unitUse (c : Config) : Instr → Option (UnitIx × Nat)
  | .nop => none
  | .luih _ _ => none
  | .orlo _ _ => none
  | .mov _ _ => none
  | .svfcfg u _ _ _ _ => some (u, c.numSvf)
  | .svfproc _ u _ => some (u, c.numSvf)
  | .pseed u _ => some (u, c.numPink)
  | .pnext _ u => some (u, c.numPink)
  | .white _ u => some (u, c.numPink)
  | .oscpitch u _ => some (u, c.numOsc)
  | .oscstep u _ => some (u, c.numOsc)
  | .oscrst u _ => some (u, c.numOsc)
  | .oscsaw _ u => some (u, c.numOsc)
  | .oscmode u _ => some (u, c.numOsc)
  | .bankmix _ b _ _ => some (b, c.numBank)
  | .dcfg u _ => some (u, c.numDelay)
  | .dsetf u _ => some (u, c.numDelay)
  | .dsetd u _ => some (u, c.numDelay)
  | .dtick _ u _ _ => some (u, c.numDelay)
  | .rescale _ _ _ _ => none
  | .resolve _ _ _ _ => none
  | .xfade _ _ _ _ => none

/-- The fourth check of R92: a command that names a unit names one below its family's limit. -/
def unitInRange (c : Config) (i : Instr) : Bool :=
  match unitUse c i with
  | none => true
  | some (u, limit) => decide (u.toNat < limit)

/-- The cause code recorded in STATUS.CAUSE (60_exceptions.md R201). -/
def Cause.code : Cause → BitVec 4
  | .illegalOpcode => 1#4
  | .reservedField => 2#4
  | .reservedMode => 3#4
  | .unitRange => 4#4

/-! ### The encoder (R93) -/

/-- The `mode` value of a filter type (R84). -/
def FilterMode.code : FilterMode → BitVec 2
  | .lowpass => 0#2
  | .highpass => 1#2
  | .bandpass => 2#2

/-- `c = {op, rd, rs1, rs2, rs3, u, imm6}` (R93, format R). -/
def formatR (op : BitVec 6) (rd rs1 rs2 rs3 : Reg) (u : UnitIx) (imm6 : BitVec 6) : Word :=
  op ++ rd ++ rs1 ++ rs2 ++ rs3 ++ u ++ imm6

/-- `c = {op, rd, 000000, imm16}` (R93, format I). -/
def formatI (op : BitVec 6) (rd : Reg) (imm16 : BitVec 16) : Word :=
  op ++ rd ++ (0#6) ++ imm16

/-- The command word of a command (R82, R93); a field the command does not use is zero (R81). -/
def encode : Instr → Word
  | .nop => formatR 0x00#6 0 0 0 0 0 0
  | .luih rd imm16 => formatI 0x01#6 rd imm16
  | .orlo rd imm16 => formatI 0x02#6 rd imm16
  | .mov rd rs1 => formatR 0x03#6 rd rs1 0 0 0 0
  | .svfcfg u mode rs1 rs2 rs3 => formatR 0x08#6 0 rs1 rs2 rs3 u (mode.code.setWidth 6)
  | .svfproc rd u rs1 => formatR 0x09#6 rd rs1 0 0 u 0
  | .pseed u rs1 => formatR 0x10#6 0 rs1 0 0 u 0
  | .pnext rd u => formatR 0x11#6 rd 0 0 0 u 0
  | .white rd u => formatR 0x12#6 rd 0 0 0 u 0
  | .oscpitch u rs1 => formatR 0x18#6 0 rs1 0 0 u 0
  | .oscstep u rs1 => formatR 0x19#6 0 rs1 0 0 u 0
  | .oscrst u rs1 => formatR 0x1A#6 0 rs1 0 0 u 0
  | .oscsaw rd u => formatR 0x1B#6 rd 0 0 0 u 0
  | .oscmode u mode => formatR 0x1C#6 0 0 0 0 u (mode.setWidth 6)
  | .bankmix rd b rs1 rs2 => formatR 0x1D#6 rd rs1 rs2 0 b 0
  | .dcfg u rs1 => formatR 0x20#6 0 rs1 0 0 u 0
  | .dsetf u rs1 => formatR 0x21#6 0 rs1 0 0 u 0
  | .dsetd u rs1 => formatR 0x22#6 0 rs1 0 0 u 0
  | .dtick rd u rs1 rs2 => formatR 0x23#6 rd rs1 rs2 0 u 0
  | .rescale rd rs1 rs2 rs3 => formatR 0x28#6 rd rs1 rs2 rs3 0 0
  | .resolve rd rs1 rs2 rs3 => formatR 0x29#6 rd rs1 rs2 rs3 0 0
  | .xfade rd rs1 rs2 rs3 => formatR 0x2A#6 rd rs1 rs2 rs3 0 0

/-- The instruction the decoder reads from the table's word `w` of `nbits` bits (bits above `nbits`
are 0). A command is one whole 32-bit word (R80, R89), so it has no word or byte order to lay out. -/
def decodeTableWord (nbits w : Nat) : Option Instr :=
  if w < 2 ^ 32 then
    match decode (BitVec.ofNat 32 (w % 2 ^ nbits)) with
    | .ok i => some i
    | .illegal _ => none
  else none

end Sys2Proof
end

