-- ==== Sys2Proof/Machine/Float.lean ====
section
/-! DEFINITION. IEEE 754 binary32 arithmetic, round to nearest with ties to even, on bit patterns
(spec/00_scope.md R8 to R14).

Every finite binary32 is an integer multiple of 2^-149. Each operation takes its operands to those
integers, computes exactly there, and rounds once at the end. -/

namespace Sys2Proof.F32

/-! ### The layout (R8) -/

/-- Bit 31. -/
def sign (v : Word) : Bool := v.msb

/-- Bits 30..0 as a number. It orders the magnitudes, infinity above every finite one. -/
def mag (v : Word) : Nat := v.toNat % 2 ^ 31

/-- `isNaN(v)` (R12). -/
def isNaN (v : Word) : Bool := decide (0x7F800000 < mag v)

/-- `v` is `+inf` or `-inf`. -/
def isInf (v : Word) : Bool := decide (mag v = 0x7F800000)

/-- `isFinite(v)` (R12). -/
def isFinite (v : Word) : Bool := decide (mag v < 0x7F800000)

/-- `v` is `+0` or `-0`. -/
def isZero (v : Word) : Bool := decide (mag v = 0)

/-- The value of a magnitude in units of 2^-149: exponent field `m / 2^23`, fraction `m % 2^23`, with
the hidden bit for a nonzero exponent. The infinity's pattern continues the scale with 2^277, above
every finite value, so comparisons need no case for it. -/
def magUnits (m : Nat) : Nat :=
  if m / 2 ^ 23 = 0 then m % 2 ^ 23 else (2 ^ 23 + m % 2 ^ 23) * 2 ^ (m / 2 ^ 23 - 1)

/-- The exact value of a pattern that is not a NaN, in units of 2^-149. -/
def units (v : Word) : Int :=
  if sign v then -(magUnits (mag v) : Int) else (magUnits (mag v) : Int)

/-- 1.0 in units of 2^-149. -/
def unit1 : Nat := 2 ^ 149

/-- A pattern from a sign and a magnitude pattern. -/
def pack (neg : Bool) (m : Nat) : Word :=
  BitVec.ofNat 32 (if neg then 2 ^ 31 + m else m)

/-! ### Rounding (R9) -/

/-- `num / den` to the nearest integer, ties to even. -/
def quotNearestEven (num den : Nat) : Nat :=
  if den < 2 * (num % den) ∨ (2 * (num % den) = den ∧ num / den % 2 = 1) then num / den + 1
  else num / den

/-- The magnitude pattern nearest to `num / den` units, ties to even. Below 2^24 units the grid is one
unit (the subnormals and the first normal binade); above, it is coarser by the excess of the bit
length over 24. A result past the largest finite magnitude is the infinity. -/
def roundMag (num den : Nat) : Nat :=
  let shift := Nat.log2 (num / den) - 23
  min (shift * 2 ^ 23 + quotNearestEven num (den * 2 ^ shift)) 0x7F800000

/-- Sign and magnitude `num / den` units, rounded to binary32. -/
def round (neg : Bool) (num den : Nat) : Word := pack neg (roundMag num den)

/-! ### Arithmetic (R9, R10, R11). `nan` is the parameter NAN_RESULT (DEDUCED, log entry 9). The signs
of zeros and the overflow to infinity are IEEE 754's (PRESUMED, log entry 14). -/

/-- `-v` flips bit 31 and nothing else (R10). -/
def neg (v : Word) : Word := v ^^^ 0x80000000#32

/-- `a + b`. An exact zero sum is `+0` unless both operands are negative. -/
def add (nan a b : Word) : Word :=
  if isNaN a || isNaN b then nan
  else if isInf a then
    if isInf b && (sign a != sign b) then nan else a
  else if isInf b then b
  else if units a + units b = 0 then pack (sign a && sign b) 0
  else round (decide (units a + units b < 0)) (units a + units b).natAbs 1

/-- `a - b` is `a + (-b)`. -/
def sub (nan a b : Word) : Word := add nan a (neg b)

/-- `a * b`. -/
def mul (nan a b : Word) : Word :=
  if isNaN a || isNaN b then nan
  else if isInf a || isInf b then
    if isZero a || isZero b then nan else pack (sign a != sign b) 0x7F800000
  else round (sign a != sign b) (magUnits (mag a) * magUnits (mag b)) unit1

/-- `a / b`. -/
def div (nan a b : Word) : Word :=
  if isNaN a || isNaN b then nan
  else if isInf a then
    if isInf b then nan else pack (sign a != sign b) 0x7F800000
  else if isInf b then pack (sign a != sign b) 0
  else if isZero b then
    if isZero a then nan else pack (sign a != sign b) 0x7F800000
  else round (sign a != sign b) (magUnits (mag a) * unit1) (magUnits (mag b))

/-! ### Comparisons (R12): false when either operand is a NaN; `+0 == -0`. -/

/-- `a < b`. -/
def lt (a b : Word) : Bool := !isNaN a && !isNaN b && decide (units a < units b)

/-- `a <= b`. -/
def le (a b : Word) : Bool := !isNaN a && !isNaN b && decide (units a ≤ units b)

/-- `a > b`. -/
def gt (a b : Word) : Bool := lt b a

/-- `a >= b`. -/
def ge (a b : Word) : Bool := le b a

/-- `a == b`. -/
def eq (a b : Word) : Bool := !isNaN a && !isNaN b && decide (units a = units b)

/-! ### Helper functions (R13) -/

/-- `f32(n)` for an integer `n >= 0`. -/
def ofNat (n : Nat) : Word := round false (n * unit1) 1

/-- `int(v)` for an integer-valued finite `v`. -/
def toInt (v : Word) : Int := units v / (unit1 : Int)

/-- `floor32(v)`: the largest integer not above `v`; an infinity, a NaN or a zero is itself. -/
def floor32 (v : Word) : Word :=
  if !isFinite v || isZero v then v
  else round (sign v) ((units v / (unit1 : Int)) * (unit1 : Int)).natAbs 1

/-- `rha(v)`: the nearest integer, halves away from zero, with the sign of `v`; an infinity or a NaN
is itself. -/
def rha (v : Word) : Word :=
  if !isFinite v then v
  else round (sign v) ((2 * magUnits (mag v) + unit1) / (2 * unit1) * unit1) 1

/-- `minNum(a, b)`. -/
def minNum (a b : Word) : Word :=
  if isNaN a then b else if isNaN b then a else if lt a b then a else b

/-- A NaN that no rule gives a payload: the quiet NaN with the other bits of `w`. -/
def quiet (w : Word) : Word := w ||| 0x7FC00000#32

/-! ### Named constants (R14) -/

/-- `PI32`. -/
def pi32 : Word := 0x40490FDB#32
/-- `TWOPI32`. -/
def twoPi32 : Word := 0x40C90FDB#32
/-- `ONE`. -/
def one : Word := 0x3F800000#32
/-- `TWO`. -/
def two : Word := 0x40000000#32
/-- `THREE`. -/
def three : Word := 0x40400000#32
/-- `FIVE`. -/
def five : Word := 0x40A00000#32
/-- `HALF`. -/
def half : Word := 0x3F000000#32
/-- `TWO_M24`. -/
def twoM24 : Word := 0x33800000#32
/-- `+0.0`. -/
def zero : Word := 0x00000000#32
/-- `CANON_NAN`. -/
def canonNaN : Word := 0x7FC00000#32

end Sys2Proof.F32
end

