-- ==== Sys2Proof/Machine/Units.lean ====
section
/-! DEFINITION. The state of one unit of each kind and its reset values (spec/10_state.md R33 to R41),
and the random source of the pink units, which their reset draws from (spec/41_pink_noise.md R120 to
R123). -/

namespace Sys2Proof.Machine

/-- State of an SVF unit (R33). -/
structure SvfUnit where
  mode : FilterMode
  cutoff : Word
  res : Word
  sr : Word
  /-- `g`, the integrator gain -/
  g : Word
  /-- `R`, the damping coefficient -/
  damping : Word
  z1 : Word
  z2 : Word
  deriving DecidableEq, Repr

/-- State of a pink-noise unit (R35). -/
structure PinkUnit where
  count : BitVec 5
  taps : Vector Word 5
  rng : Word
  deriving DecidableEq, Repr

/-- Schmitt-trigger state of a reset edge detector (R37). -/
inductive Trig where
  | low
  | high
  deriving DecidableEq, Repr

/-- State of an oscillator (R37). -/
structure OscUnit where
  phase : Word
  freq : Word
  offset : Bool
  invert : Bool
  trig : Trig
  deriving DecidableEq, Repr

/-- State of a delay unit (R40). Word `i` of the ring buffer is the four bytes at `4 * i` to
`4 * i + 3`, byte 0 the lowest (20_memory.md R62; DESIGN CHOICE, log entry 5). -/
structure DelayUnit where
  buf : List Host.Cell
  /-- `w`, the write index, `0..C-1` -/
  w : Nat
  /-- `B`, the base delay in samples -/
  base : Word
  depth : Word
  lfoFreq : Word
  lfoPhase : Word
  deriving DecidableEq, Repr

/-- R34. -/
def SvfUnit.reset : SvfUnit where
  mode := .lowpass
  cutoff := F32.zero
  res := F32.zero
  sr := F32.zero
  g := F32.zero
  damping := F32.one
  z1 := F32.zero
  z2 := F32.zero

/-- R38. -/
def OscUnit.reset : OscUnit where
  phase := F32.zero
  freq := F32.one
  offset := false
  invert := false
  trig := .low

/-- R41. The empty list is the zero-filled ring. -/
def DelayUnit.reset : DelayUnit where
  buf := []
  w := 0
  base := F32.zero
  depth := F32.zero
  lfoFreq := F32.zero
  lfoPhase := F32.zero

/-! ### The random source of a pink unit -/

/-- One step of the generator (R120). -/
def xorshift32 (s : Word) : Word :=
  let s := s ^^^ (s <<< 13)
  let s := s ^^^ (s >>> 17)
  s ^^^ (s <<< 5)

/-- The top 24 bits of the generator as a fraction of 2^24 (R121, R122). -/
def unitFraction (c : Config) (rng : Word) : Word :=
  F32.mul c.nanResult (F32.ofNat (rng.toNat / 2 ^ 8)) F32.twoM24

/-- The magnitude a generator word gives a tap, in `[0, PINK_RANGE/5)` (R121). -/
def tapValue (c : Config) (rng : Word) : Word :=
  F32.mul c.nanResult (unitFraction c rng) (F32.div c.nanResult c.pinkRange F32.five)

/-- The white sample a generator word gives, in `[-1, 1)` (R122). -/
def whiteValue (c : Config) (rng : Word) : Word :=
  F32.sub c.nanResult (F32.mul c.nanResult (unitFraction c rng) F32.two) F32.one

/-- `tap[i] <- drawTap(k)` (R121): advance the generator once and store the draw in tap `i`. -/
def drawTap (c : Config) (p : PinkUnit) (i : Fin 5) : PinkUnit :=
  { p with
    rng := xorshift32 p.rng
    taps := p.taps.set i.val (tapValue c (xorshift32 p.rng)) i.isLt }

/-- The seed that replaces a zero seed (R123), and the reset seed of unit 0 (R36). -/
def defaultSeed : Word := 0x9E3779B9#32

/-- The seeding step of PSEED (R123). All five taps are drawn anew, in order. -/
def seedPink (c : Config) (p : PinkUnit) (seed : Word) : PinkUnit :=
  { ([0, 1, 2, 3, 4] : List (Fin 5)).foldl (drawTap c)
      { p with rng := if seed = 0#32 then defaultSeed else seed } with
    count := 0#5 }

/-- R36: unit `k` is seeded with `0x9E3779B9 ^ k`. -/
def PinkUnit.reset (c : Config) (k : Nat) : PinkUnit :=
  seedPink c { count := 0#5, taps := #v[0, 0, 0, 0, 0], rng := 0#32 } (defaultSeed ^^^ BitVec.ofNat 32 k)

end Sys2Proof.Machine
end

