-- ==== Sys2Proof/Machine/State.lean ====
section
/-! DEFINITION. The state of the machine, its outcomes and its reset (spec/10_state.md R20 to R44,
spec/70_reset_and_hazards.md R231). -/

namespace Sys2Proof.Machine

/-- One host-port transaction: an 8-bit word address, and the word a write carries (R25). -/
inductive HostTxn where
  | read (addr : BitVec 8)
  | write (addr : BitVec 8) (data : Word)
  deriving DecidableEq, Repr

/-- The state. A four-bit field names 16 registers and 16 slots of each kind of unit; the units the
configured block has are those below the counts of `cfg` (30_encoding.md R86), and no command reaches
a slot at or above them (log entry 4). -/
structure State where
  /-- the parameters (R7, R44), constant: the model's own field (log entry 1) -/
  cfg : Config
  /-- `r0` to `r15` (R20) -/
  regs : Vector Word 16
  /-- `STATUS.ERR` (R28) -/
  err : Bool
  /-- `STATUS.CAUSE` (R28) -/
  cause : BitVec 4
  /-- `ERRCMD` (R29) -/
  errCmd : Word
  /-- SVF units (R33) -/
  svf : Vector SvfUnit 16
  /-- pink-noise units (R35) -/
  pink : Vector PinkUnit 16
  /-- oscillators (R37); bank `b` is the oscillators `3b`, `3b+1`, `3b+2` (R39) -/
  osc : Vector OscUnit 16
  /-- delay units (R40) -/
  dly : Vector DelayUnit 16
  /-- the host's transactions not yet issued, oldest first: the model's own field (log entry 2) -/
  port : List HostTxn
  /-- what the block returned for the last transaction: the model's own field (log entry 3) -/
  reply : Option Word
  deriving DecidableEq, Repr

/-- Why the machine stops. -/
inductive Fault where
  /-- Raised by OSCSTEP where the loop of R141, "while ph >= ONE", does not end: the sum is `+inf` or
  so large that subtracting 1 leaves it unchanged. The core would never complete the command. No run
  from reset holds such a phase (R141; DEDUCED, log entry 10). Safe: the model stops where no next state exists. -/
  | phaseWrapDiverges
  deriving DecidableEq, Repr

/-- Why an instruction has no meaning. -/
inductive Refusal where
  /-- Answered by `exec`'s arm of an instruction that has no meaning yet; no arm of this model does.
  Safe: the model stops. -/
  | notModelled (mnemonic : String)
  deriving DecidableEq, Repr

/-- The state after reset of a block with parameters `c` (R231, R232), with no transaction pending. -/
def State.resetOf (c : Config) : State where
  cfg := c
  regs := Vector.replicate 16 0x00000000#32
  err := false
  cause := 0#4
  errCmd := 0x00000000#32
  svf := Vector.replicate 16 SvfUnit.reset
  pink := #v[PinkUnit.reset c 0, PinkUnit.reset c 1, PinkUnit.reset c 2, PinkUnit.reset c 3,
    PinkUnit.reset c 4, PinkUnit.reset c 5, PinkUnit.reset c 6, PinkUnit.reset c 7,
    PinkUnit.reset c 8, PinkUnit.reset c 9, PinkUnit.reset c 10, PinkUnit.reset c 11,
    PinkUnit.reset c 12, PinkUnit.reset c 13, PinkUnit.reset c 14, PinkUnit.reset c 15]
  osc := Vector.replicate 16 OscUnit.reset
  dly := Vector.replicate 16 DelayUnit.reset
  port := []
  reply := none

/-- The machine right after power-on: the reference configuration of R7 at the values of R231. -/
def State.reset : State := State.resetOf Config.reference

end Sys2Proof.Machine
end

