-- ==== Sys2Proof/Machine/Ops.lean ====
section
/-! DEFINITION. The named operations over registers, units and delay memory, and taking and leaving the
one exception (spec/00_scope.md R17, spec/20_memory.md R61, R75, R76, spec/60_exceptions.md R202, R207). -/

namespace Sys2Proof.Machine

/-- The outcomes of this machine. -/
abbrev Result := Host.Outcome State Fault Refusal

/-! ### Registers and units: sixteen slots named by four bits -/

/-- The slot a four-bit index names. -/
def slot {α : Type} (v : Vector α 16) (i : BitVec 4) : α := v[i.toNat]'i.isLt

/-- The slots with the one a four-bit index names replaced. -/
def setSlot {α : Type} (v : Vector α 16) (i : BitVec 4) (x : α) : Vector α 16 :=
  v.set i.toNat x i.isLt

/-- `x[i]` and `xb[i]`: the word in operand register `ri` (R17). -/
def State.readReg (s : State) (i : Reg) : Word := slot s.regs i

/-- `x[i] <- v` and `xb[i] <- v` (R17). -/
def State.writeReg (s : State) (i : Reg) (v : Word) : State := { s with regs := setSlot s.regs i v }

/-- The state of SVF unit `k`. -/
def State.svfAt (s : State) (k : UnitIx) : SvfUnit := slot s.svf k

/-- Replace the state of SVF unit `k`. -/
def State.setSvf (s : State) (k : UnitIx) (x : SvfUnit) : State := { s with svf := setSlot s.svf k x }

/-- The state of pink unit `k`. -/
def State.pinkAt (s : State) (k : UnitIx) : PinkUnit := slot s.pink k

/-- Replace the state of pink unit `k`. -/
def State.setPink (s : State) (k : UnitIx) (x : PinkUnit) : State :=
  { s with pink := setSlot s.pink k x }

/-- The state of oscillator `j`. -/
def State.oscAt (s : State) (j : UnitIx) : OscUnit := slot s.osc j

/-- Replace the state of oscillator `j`. -/
def State.setOsc (s : State) (j : UnitIx) (x : OscUnit) : State := { s with osc := setSlot s.osc j x }

/-- The state of delay unit `k`. -/
def State.dlyAt (s : State) (k : UnitIx) : DelayUnit := slot s.dly k

/-- Replace the state of delay unit `k`. -/
def State.setDly (s : State) (k : UnitIx) (x : DelayUnit) : State :=
  { s with dly := setSlot s.dly k x }

/-! ### Delay memory -/

/-- What a byte that the list does not name reads as: the zero fill of reset and DCFG (R41, R76;
log entry 5). -/
def Memory.unlisted : Byte := 0#8

/-- The canonical form: addresses strictly rising, and no cell equal to an unlisted byte. -/
abbrev Memory.wf (m : List Host.Cell) : Prop :=
  m.Pairwise (fun a b => a.1 < b.1) ∧ ∀ c ∈ m, c.2 ≠ Memory.unlisted

/-- Every listed byte lies in a ring of `words` words. -/
abbrev Memory.within (words : Nat) (m : List Host.Cell) : Prop := ∀ c ∈ m, c.1 < 4 * words

/-- The byte at an address. -/
def Memory.readByte : List Host.Cell → Nat → Byte
  | [], _ => Memory.unlisted
  | (a', b) :: rest, a => if a' = a then b else Memory.readByte rest a

/-- Put a byte in front of cells that lie above it, keeping the canonical form. -/
def Memory.cons (a : Nat) (b : Byte) (rest : List Host.Cell) : List Host.Cell :=
  if b = Memory.unlisted then rest else (a, b) :: rest

/-- Store a byte at an address, keeping the canonical form. -/
def Memory.writeByte : List Host.Cell → Nat → Byte → List Host.Cell
  | [], a, b => Memory.cons a b []
  | (a', b') :: rest, a, b =>
    if a < a' then Memory.cons a b ((a', b') :: rest)
    else if a = a' then Memory.cons a b rest
    else (a', b') :: Memory.writeByte rest a b

/-- The word at a word index: bytes `4 * i` (bits 7:0) to `4 * i + 3` (bits 31:24) (R61, R62). -/
def Memory.readWord (m : List Host.Cell) (i : Nat) : Word :=
  Memory.readByte m (4 * i + 3) ++ Memory.readByte m (4 * i + 2) ++
    Memory.readByte m (4 * i + 1) ++ Memory.readByte m (4 * i)

/-- Byte lane `k` of a word. -/
def lane (v : Word) (k : Nat) : Byte := v.extractLsb' (8 * k) 8

/-- Store a word at a word index, pattern exact (R61). -/
def Memory.writeWord (m : List Host.Cell) (i : Nat) (v : Word) : List Host.Cell :=
  Memory.writeByte (Memory.writeByte (Memory.writeByte (Memory.writeByte m
    (4 * i) (lane v 0)) (4 * i + 1) (lane v 1)) (4 * i + 2) (lane v 2)) (4 * i + 3) (lane v 3)

/-- The ring index of an integer position: `i mod C`, in `[0, C)` also for negative `i` (R16, R75). -/
def ringIndex (c : Config) (i : Int) : Nat := (i % (c.capacity : Int)).toNat

/-- `MemRead(k, i)` on a delay unit's ring (R75). -/
def memRead (c : Config) (d : DelayUnit) (i : Int) : Word := Memory.readWord d.buf (ringIndex c i)

/-- `MemWrite(k, i, v)` on a delay unit's ring (R75). -/
def memWrite (c : Config) (d : DelayUnit) (i : Int) (v : Word) : DelayUnit :=
  { d with buf := Memory.writeWord d.buf (ringIndex c i) v }

/-- Every word of the ring to `0x00000000` at once (R76). -/
def memClear (d : DelayUnit) : DelayUnit := { d with buf := [] }

/-! ### The exception -/

/-- Taking IllegalCommand (R202): the first rejected word since ERR was clear is recorded with its
cause. Nothing else changes (R203), no control is transferred (R206). -/
def raiseIllegal (cause : Cause) (c : Word) (s : State) : State :=
  if s.err then s else { s with err := true, cause := cause.code, errCmd := c }

/-- The return from it (R207, R28): the host's write of STATUS with bit 0 set clears the record. -/
def clearError (s : State) : State := { s with err := false, cause := 0#4, errCmd := 0x00000000#32 }

/-- The fourth check of the decoder, at the head of every command that names a unit (R86, R92): the
command is rejected with cause UNIT_RANGE, or has the effect given. ERRCMD takes the command's own
word, which is the word that was written (the decoder reads exactly the words the encoder writes;
DESIGN CHOICE, log entry 11). -/
def withUnit (i : Instr) (s : State) (effect : Result) : Result :=
  if unitInRange s.cfg i then effect else .next (raiseIllegal .unitRange (encode i) s)

end Sys2Proof.Machine
end

