-- ==== Sys2Proof/Machine/Operands.lean ====
section
/-! DEFINITION. The operand forms (spec/00_scope.md R17, spec/30_encoding.md R81) and binary32
arithmetic with the block's NAN_RESULT (spec/00_scope.md R9, R11). -/

namespace Sys2Proof.Machine

/-- The second register of a RESCALE range pair: `(r + 1) mod 16` (R81, R180). -/
def nextReg (r : Reg) : Reg := r + 1#4

/-- `zext_32(imm16)` (R81). -/
def zext32 (imm16 : BitVec 16) : Word := imm16.setWidth 32

/-- `{imm16, 0x0000}`: LUIH's placement of the immediate in bits 31:16 (R81, R191). -/
def upperHalf (imm16 : BitVec 16) : Word := imm16 ++ (0#16)

/-- Voice `n` of bank `b`: oscillator `3 * b + n` (10_state.md R39). -/
def voice (b : UnitIx) (n : BitVec 4) : UnitIx := 3#4 * b + n

/-- `a + b` in the configured block. -/
def fadd (c : Config) (a b : Word) : Word := F32.add c.nanResult a b

/-- `a - b` in the configured block. -/
def fsub (c : Config) (a b : Word) : Word := F32.sub c.nanResult a b

/-- `a * b` in the configured block. -/
def fmul (c : Config) (a b : Word) : Word := F32.mul c.nanResult a b

/-- `a / b` in the configured block. -/
def fdiv (c : Config) (a b : Word) : Word := F32.div c.nanResult a b

end Sys2Proof.Machine
end

