-- ==== Sys2Proof/Machine/Transcend.lean ====
section
/-! DEFINITION. The transcendental functions of the block (spec/00_scope.md R15): the correctly rounded
ones of the reference configuration, computed in 256-bit fixed point and rounded once; functions a configuration
gives by their values; and an implementation's own, free but for the values R15 fixes in every
configuration (log entry 7). -/

namespace Sys2Proof

namespace Transcend

/-! ### The reference configuration (R15; log entry 6) -/

/-- Fixed-point one. -/
def scale : Nat := 2 ^ 256

/-- pi/2 with 512 fractional bits, rounded down (PRESUMED, log entry 6). -/
def halfPi : Nat :=
  0x1921fb54442d18469898cc51701b839a252049c1114cf98e804177d4c76273644a29410f31c6809bbdf2a33679a748636605614dbe4be286e9fc26adadaa3848b

/-- The natural logarithm of 2 with 256 fractional bits, rounded down (PRESUMED, log entry 6). -/
def ln2 : Nat :=
  0xb17217f7d1cf79abc9e3b39803f2f6af40f343267298b62d8a0d175b8baafa2b

/-- `t - t r²/((n+1)(n+2)) + …` in fixed point: from `n = 1, t = r` the sine of `r`, from
`n = 0, t = 1` its cosine. `r2` is `r²`. -/
def alternatingSum (r2 : Nat) : Nat → Nat → Nat → Int
  | 0, _, _ => 0
  | terms + 1, n, t =>
    (t : Int) - alternatingSum r2 terms (n + 2) (t * r2 / scale / ((n + 1) * (n + 2)))

/-- `t + t y/(n+1) + …` in fixed point: from `n = 0, t = 1` the exponential of `y`. -/
def exponentialSum (y : Nat) : Nat → Nat → Nat → Nat
  | 0, _, _ => 0
  | terms + 1, n, t => t + exponentialSum y terms (n + 1) (t * y / scale / (n + 1))

/-- An argument less the nearest multiple `quarter` of pi/2: what is left has the sign `below` and the
sine and cosine of its magnitude are `sin` and `cos`, in fixed point. -/
structure Reduced where
  quarter : Nat
  below : Bool
  sin : Nat
  cos : Nat
  deriving DecidableEq, Repr

/-- Reduce the magnitude `m`, given in units of 2^-149. -/
def reduce (m : Nat) : Reduced :=
  let x := m * 2 ^ 363
  let quarter := (2 * x + halfPi) / (2 * halfPi)
  let rest : Int := (x : Int) - (quarter * halfPi : Nat)
  let r := rest.natAbs / scale
  let r2 := r * r / scale
  { quarter := quarter
    below := decide (rest < 0)
    sin := (alternatingSum r2 40 1 r).toNat
    cos := (alternatingSum r2 40 0 scale).toNat }

/-- The sine of a finite nonzero pattern, rounded to binary32. -/
def sinNonzero (v : Word) : Word :=
  let d := reduce (F32.magUnits (F32.mag v))
  match d.quarter % 4 with
  | 0 => F32.round (F32.sign v != d.below) (d.sin * F32.unit1) scale
  | 1 => F32.round (F32.sign v) (d.cos * F32.unit1) scale
  | 2 => F32.round (F32.sign v != !d.below) (d.sin * F32.unit1) scale
  | _ => F32.round (!F32.sign v) (d.cos * F32.unit1) scale

/-- The tangent of a finite nonzero pattern, rounded to binary32. -/
def tanNonzero (v : Word) : Word :=
  let d := reduce (F32.magUnits (F32.mag v))
  if d.quarter % 2 = 0 then F32.round (F32.sign v != d.below) (d.sin * F32.unit1) d.cos
  else F32.round (F32.sign v != !d.below) (d.cos * F32.unit1) d.sin

/-- 2 to the power of a finite pattern below 128, rounded to binary32. -/
def exp2Finite (v : Word) : Word :=
  let whole := F32.units v / (F32.unit1 : Int)
  let part := (F32.units v % (F32.unit1 : Int)).toNat
  if whole < -160 then F32.zero
  else
    let y := part * 2 ^ 107 * ln2 / scale
    F32.round false (exponentialSum y 60 0 scale * 2 ^ (whole + 160).toNat) (2 ^ 267)

/-- The reference tangent at every pattern. -/
def tanReference (c : Config) (v : Word) : Word :=
  if !F32.isFinite v then c.nanResult
  else if F32.isZero v then F32.pack (F32.sign v && Config.tanNegZeroSign) 0
  else tanNonzero v

/-- The reference sine at every pattern. -/
def sinReference (c : Config) (v : Word) : Word :=
  if !F32.isFinite v then c.nanResult
  else if F32.isZero v then F32.pack (F32.sign v && Config.sinNegZeroSign) 0
  else sinNonzero v

/-- The reference power of two of a NaN or of a finite pattern below 128. -/
def exp2Reference (c : Config) (v : Word) : Word :=
  if F32.isNaN v then c.nanResult else exp2Finite v

end Transcend

/-! ### The functions of a configuration (R15) -/

/-- The value a function parameter gives, `free` being the implementation's own and `ref` the reference
(R7; log entry 7). -/
def FnUnit.value (fn : FnUnit) (free : Nat → Word → Word) (ref : Word → Word) (v : Word) : Word :=
  match fn with
  | .reference => ref v
  | .given points => (points.lookup v).getD (ref v)
  | .other k => free k v

/-- What R15 fixes of `tan32` and of `sin32` in every configuration, around the value `y` that the
configuration gives: a quiet NaN for a NaN or an infinity, and `+0` for `+0`. -/
def trigFixed (v y : Word) : Word :=
  if !F32.isFinite v then F32.quiet y
  else if v = F32.zero then F32.zero
  else y

/-- `tan32(v)`. -/
def tan32 (c : Config) (v : Word) : Word :=
  trigFixed v (c.tanFn.value Config.freeTan (Transcend.tanReference c) v)

/-- `sin32(v)`. -/
def sin32 (c : Config) (v : Word) : Word :=
  trigFixed v (c.sinFn.value Config.freeSin (Transcend.sinReference c) v)

/-- `v` is an integer in `[-126, 127]`, where every configuration's `exp2_32` is exact (R15). -/
def exp2Exact (v : Word) : Bool :=
  F32.isFinite v && decide (F32.units v % (F32.unit1 : Int) = 0) &&
    decide (-126 ≤ F32.toInt v) && decide (F32.toInt v ≤ 127)

/-- What R15 fixes of `exp2_32` in every configuration, around the value `y` that the configuration
gives. An argument of 128 or more overflows to `+inf` (42_oscillator_bank.md R140). -/
def exp2Fixed (v y : Word) : Word :=
  if F32.isNaN v then F32.quiet y
  else if F32.le 0x43000000#32 v then F32.pack false 0x7F800000
  else if F32.isInf v then F32.zero
  else if exp2Exact v then F32.pack false ((F32.toInt v + 127).toNat * 2 ^ 23)
  else y

/-- `exp2_32(v)`. -/
def exp2_32 (c : Config) (v : Word) : Word :=
  exp2Fixed v (c.exp2Fn.value Config.freeExp2 (Transcend.exp2Reference c) v)

end Sys2Proof
end

