-- ==== Sys2Proof/Machine/Delay.lean ====
section
/-! DEFINITION. Modulated delay line commands (spec/43_chorus_delay.md R160 to R166). -/

namespace Sys2Proof.Machine

/-- `readInterp(k, p)` on a unit's ring (R164). -/
def readInterp (c : Config) (d : DelayUnit) (p : Word) : Word :=
  if !F32.isFinite p then F32.canonNaN
  else
    let fl := F32.floor32 p
    let f := fsub c p fl
    let b0 := memRead c d (F32.toInt fl)
    let b1 := memRead c d (F32.toInt fl + 1)
    if F32.eq f F32.zero then b0 else fadd c b0 (fmul c f (fsub c b1 b0))

/-- `wrapPhase(v)` (R165). -/
def wrapPhase (c : Config) (v : Word) : Word :=
  if F32.isNaN v then v
  else if F32.ge v F32.one || F32.lt v F32.zero then
    let v' := fsub c v (F32.floor32 v)
    if F32.ge v' F32.one then F32.zero else v'
  else v

/-- DCFG on a unit: the base delay, and the line restarted (R160). -/
def delayConfigure (d : DelayUnit) (base : Word) : DelayUnit :=
  { memClear d with base := base, w := 0, lfoPhase := F32.zero }

/-- The read position `(f32(w) - B) - depth * sin32(TWOPI32 * lfoPhase)` (R163). -/
def readPosition (c : Config) (d : DelayUnit) : Word :=
  let m := fmul c d.depth (sin32 c (fmul c F32.twoPi32 d.lfoPhase))
  fsub c (fsub c (F32.ofNat d.w) d.base) m

/-- The phase and write index after a tick (R163). -/
def delayAdvance (c : Config) (d : DelayUnit) (fs : Word) : DelayUnit :=
  { d with
    lfoPhase := wrapPhase c (fadd c d.lfoPhase (fdiv c d.lfoFreq fs))
    w := (d.w + 1) % c.capacity }

/-- DCFG (R160). -/
def execDcfg (u : UnitIx) (rs1 : Reg) (s : State) : Result :=
  withUnit (.dcfg u rs1) s (.next (s.setDly u (delayConfigure (s.dlyAt u) (s.readReg rs1))))

/-- DSETF (R161). -/
def execDsetf (u : UnitIx) (rs1 : Reg) (s : State) : Result :=
  withUnit (.dsetf u rs1) s (.next (s.setDly u { s.dlyAt u with lfoFreq := s.readReg rs1 }))

/-- DSETD (R162). -/
def execDsetd (u : UnitIx) (rs1 : Reg) (s : State) : Result :=
  withUnit (.dsetd u rs1) s (.next (s.setDly u { s.dlyAt u with depth := s.readReg rs1 }))

/-- DTICK (R163): the input is written first, then the line is read, then phase and index advance. -/
def execDtick (rd : Reg) (u : UnitIx) (rs1 rs2 : Reg) (s : State) : Result :=
  let d := memWrite s.cfg (s.dlyAt u) (s.dlyAt u).w (s.readReg rs1)
  withUnit (.dtick rd u rs1 rs2) s
    (.next ((s.setDly u (delayAdvance s.cfg d (s.readReg rs2))).writeReg rd
      (readInterp s.cfg d (readPosition s.cfg d))))

end Sys2Proof.Machine
end

