-- ==== Sys2Proof/Machine/Mapper.lean ====
section
/-! DEFINITION. Parameter mapper commands (spec/44_parameter_mapper.md R180 to R183). -/

namespace Sys2Proof.Machine

/-- The affine map of RESCALE (R180). -/
def linearRescale (c : Config) (v a0 a1 b0 b1 : Word) : Word :=
  fadd c b0 (fmul c (fdiv c (fsub c v a0) (fsub c a1 a0)) (fsub c b1 b0))

/-- `clamp01(q)` (R181). -/
def clamp01 (q : Word) : Word :=
  if F32.isNaN q || F32.lt q F32.zero then F32.zero
  else if F32.gt q F32.one then F32.one
  else q

/-- The CV-scaled parameter of RESOLVE (R182). -/
def resolveControl (c : Config) (p cv nv : Word) : Word := fmul c (clamp01 (fdiv c cv nv)) p

/-- The crossfade of XFADE (R183). -/
def crossfade (c : Config) (dry wet wf : Word) : Word :=
  fadd c (fmul c wet wf) (fmul c dry (fsub c F32.one wf))

/-- RESCALE (R180). -/
def execRescale (rd rs1 rs2 rs3 : Reg) (s : State) : Result :=
  .next (s.writeReg rd
    (linearRescale s.cfg (s.readReg rs1) (s.readReg rs2) (s.readReg (nextReg rs2))
      (s.readReg rs3) (s.readReg (nextReg rs3))))

/-- RESOLVE (R182). -/
def execResolve (rd rs1 rs2 rs3 : Reg) (s : State) : Result :=
  .next (s.writeReg rd (resolveControl s.cfg (s.readReg rs1) (s.readReg rs2) (s.readReg rs3)))

/-- XFADE (R183). -/
def execXfade (rd rs1 rs2 rs3 : Reg) (s : State) : Result :=
  .next (s.writeReg rd (crossfade s.cfg (s.readReg rs1) (s.readReg rs2) (s.readReg rs3)))

end Sys2Proof.Machine
end

