-- ==== Sys2Proof/Machine/Osc.lean ====
section
/-! DEFINITION. Detuned oscillator bank commands (spec/42_oscillator_bank.md R140 to R146). -/

namespace Sys2Proof.Machine

/-- "while ph >= ONE: ph <- ph - ONE" (R141) with a bound on its turns: none where the bound is
reached with the phase still at least 1. -/
def wrapDown (c : Config) : Nat → Word → Option Word
  | 0, ph => if F32.ge ph F32.one then none else some ph
  | n + 1, ph => if F32.ge ph F32.one then wrapDown c n (fsub c ph F32.one) else some ph

/-- A bound no ending loop reaches: from 2^24 + 4 on, subtracting 1 never takes a binary32 below
2^24 + 4, and from anything less the loop ends within 2^24 + 2 turns. -/
def wrapTurns : Nat := 2 ^ 24 + 4

/-- The phase step, capped at half a cycle: `minNum(freq * dt, HALF)` (R141). -/
def phaseStep (c : Config) (freq dt : Word) : Word := F32.minNum (fmul c freq dt) F32.half

/-- The phase after a time step, none where the loop of R141 never ends. -/
def phaseAfter (c : Config) (p : OscUnit) (dt : Word) : Option Word :=
  wrapDown c wrapTurns (fadd c p.phase (phaseStep c p.freq dt))

/-- The edge detector's turn (R142). -/
def oscTrigger (c : Config) (p : OscUnit) (v : Word) : OscUnit :=
  match p.trig with
  | .low => if F32.ge v c.resetHi then { p with trig := .high, phase := F32.zero } else p
  | .high => if F32.le v c.resetLo then { p with trig := .low } else p

/-- `sawOut(j)` (R143). -/
def sawOut (c : Config) (p : OscUnit) : Word :=
  let v :=
    if p.offset then fmul c F32.two p.phase
    else fmul c F32.two (fsub c p.phase (F32.rha p.phase))
  if p.invert then F32.neg v else v

/-- The mix of a bank's three voices (R146). The third voice's term is left out, not multiplied by
zero, while the gate is below HALF or a NaN. -/
def bankMix (c : Config) (s0 s1 s2 m gate : Word) : Word :=
  let t := fadd c s0 (fmul c s1 m)
  let t := if F32.ge gate F32.half then fadd c t (fmul c s2 (fdiv c m F32.three)) else t
  fmul c F32.five t

/-- OSCPITCH (R140). -/
def execOscpitch (u : UnitIx) (rs1 : Reg) (s : State) : Result :=
  withUnit (.oscpitch u rs1) s
    (.next (s.setOsc u { s.oscAt u with freq := exp2_32 s.cfg (s.readReg rs1) }))

/-- OSCSTEP (R141). -/
def execOscstep (u : UnitIx) (rs1 : Reg) (s : State) : Result :=
  withUnit (.oscstep u rs1) s
    (match phaseAfter s.cfg (s.oscAt u) (s.readReg rs1) with
     | some ph => .next (s.setOsc u { s.oscAt u with phase := ph })
     | none => .fault .phaseWrapDiverges)

/-- OSCRST (R142). -/
def execOscrst (u : UnitIx) (rs1 : Reg) (s : State) : Result :=
  withUnit (.oscrst u rs1) s
    (.next (s.setOsc u (oscTrigger s.cfg (s.oscAt u) (s.readReg rs1))))

/-- OSCSAW (R144). -/
def execOscsaw (rd : Reg) (u : UnitIx) (s : State) : Result :=
  withUnit (.oscsaw rd u) s (.next (s.writeReg rd (sawOut s.cfg (s.oscAt u))))

/-- OSCMODE (R145): bit 0 is offset, bit 1 is invert (R85). -/
def execOscmode (u : UnitIx) (mode : BitVec 2) (s : State) : Result :=
  withUnit (.oscmode u mode) s
    (.next (s.setOsc u
      { s.oscAt u with offset := mode.getLsbD 0, invert := mode.getLsbD 1 }))

/-- BANKMIX (R146). -/
def execBankmix (rd : Reg) (b : UnitIx) (rs1 rs2 : Reg) (s : State) : Result :=
  withUnit (.bankmix rd b rs1 rs2) s
    (.next (s.writeReg rd
      (bankMix s.cfg (sawOut s.cfg (s.oscAt (voice b 0))) (sawOut s.cfg (s.oscAt (voice b 1)))
        (sawOut s.cfg (s.oscAt (voice b 2))) (s.readReg rs1) (s.readReg rs2))))

end Sys2Proof.Machine
end

