-- ==== Sys2Proof/Machine/Pink.lean ====
section
/-! DEFINITION. Pink-noise generator commands (spec/41_pink_noise.md R120 to R126). The generator, the
draws and the seeding step stand in Machine/Units.lean, since reset uses them. -/

namespace Sys2Proof.Machine

/-- The key of a count: its reflected binary Gray code (R126). -/
def gray (count : BitVec 5) : BitVec 5 := count ^^^ (count >>> 1)

/-- Redraw tap `i` if its key bit is set in `diff` (R124). -/
def redrawTap (c : Config) (diff : BitVec 5) (p : PinkUnit) (i : Fin 5) : PinkUnit :=
  if diff.getLsbD i.val then drawTap c p i else p

/-- The state change of PNEXT: step the count, redraw the taps whose key bit flipped (R124). -/
def pinkAdvance (c : Config) (p : PinkUnit) : PinkUnit :=
  let count' := p.count + 1#5
  ([0, 1, 2, 3, 4] : List (Fin 5)).foldl (redrawTap c (gray p.count ^^^ gray count'))
    { p with count := count' }

/-- The sum of the taps, left to right, tap 0 first (R124). -/
def pinkSum (c : Config) (t : Vector Word 5) : Word :=
  fadd c (fadd c (fadd c (fadd c t[0] t[1]) t[2]) t[3]) t[4]

/-- PSEED (R123). -/
def execPseed (u : UnitIx) (rs1 : Reg) (s : State) : Result :=
  withUnit (.pseed u rs1) s (.next (s.setPink u (seedPink s.cfg (s.pinkAt u) (s.readReg rs1))))

/-- PNEXT (R124). -/
def execPnext (rd : Reg) (u : UnitIx) (s : State) : Result :=
  let p := pinkAdvance s.cfg (s.pinkAt u)
  withUnit (.pnext rd u) s (.next ((s.setPink u p).writeReg rd (pinkSum s.cfg p.taps)))

/-- WHITE (R125): the generator advances once, taps and count unchanged. -/
def execWhite (rd : Reg) (u : UnitIx) (s : State) : Result :=
  let rng := xorshift32 (s.pinkAt u).rng
  withUnit (.white rd u) s
    (.next ((s.setPink u { s.pinkAt u with rng := rng }).writeReg rd (whiteValue s.cfg rng)))

end Sys2Proof.Machine
end

