-- ==== Sys2Proof/Machine/RegMove.lean ====
section
/-! DEFINITION. Register moves (spec/45_register_moves.md R190 to R193): bit patterns, never rounded. -/

namespace Sys2Proof.Machine

/-- NOP (R190). -/
def execNop (s : State) : Result := .next s

/-- LUIH (R191). -/
def execLuih (rd : Reg) (imm16 : BitVec 16) (s : State) : Result :=
  .next (s.writeReg rd (upperHalf imm16))

/-- ORLO (R192). -/
def execOrlo (rd : Reg) (imm16 : BitVec 16) (s : State) : Result :=
  .next (s.writeReg rd (s.readReg rd ||| zext32 imm16))

/-- MOV (R193). -/
def execMov (rd rs1 : Reg) (s : State) : Result := .next (s.writeReg rd (s.readReg rs1))

end Sys2Proof.Machine
end

