-- ==== Sys2Proof/Machine/Svf.lean ====
section
/-! DEFINITION. State-variable filter commands (spec/40_svf.md R100 to R104). -/

namespace Sys2Proof.Machine

/-- The integrator gain `tan32((PI32 * fc) / fs)` (R101). -/
def svfGain (c : Config) (fc fs : Word) : Word := tan32 c (fdiv c (fmul c F32.pi32 fc) fs)

/-- The damping coefficient `ONE - res` (R103). -/
def svfDamping (c : Config) (res : Word) : Word := fsub c F32.one res

/-- SVFCFG on a unit: coefficients and the record of the configuration; the memories are kept (R101). -/
def svfConfigure (c : Config) (p : SvfUnit) (mode : FilterMode) (fc res fs : Word) : SvfUnit :=
  { p with
    mode := mode
    cutoff := fc
    res := res
    sr := fs
    g := svfGain c fc fs
    damping := svfDamping c res }

/-- The three taps of one sample step (R100). -/
structure SvfTaps where
  hp : Word
  bp : Word
  lp : Word
  deriving DecidableEq, Repr

/-- The taps of the shared topology (R100, R102). -/
def svfTaps (c : Config) (p : SvfUnit) (x : Word) : SvfTaps :=
  let twoR := fadd c p.damping p.damping
  let a := fadd c twoR p.g
  let den := fadd c (fadd c F32.one (fmul c twoR p.g)) (fmul c p.g p.g)
  let hp := fdiv c (fsub c (fsub c x (fmul c a p.z1)) p.z2) den
  let bp := fadd c (fmul c p.g hp) p.z1
  let lp := fadd c (fmul c p.g bp) p.z2
  { hp := hp, bp := bp, lp := lp }

/-- The tap a mode returns (R102). -/
def svfSelect (mode : FilterMode) (t : SvfTaps) : Word :=
  match mode with
  | .lowpass => t.lp
  | .highpass => t.hp
  | .bandpass => t.bp

/-- The integrator memories after the sample (R102), the same in every mode (R100). -/
def svfAdvance (c : Config) (p : SvfUnit) (t : SvfTaps) : SvfUnit :=
  { p with
    z1 := fadd c (fmul c p.g t.hp) t.bp
    z2 := fadd c (fmul c p.g t.bp) t.lp }

/-- SVFCFG (R101). -/
def execSvfcfg (u : UnitIx) (mode : FilterMode) (rs1 rs2 rs3 : Reg) (s : State) : Result :=
  withUnit (.svfcfg u mode rs1 rs2 rs3) s
    (.next (s.setSvf u
      (svfConfigure s.cfg (s.svfAt u) mode (s.readReg rs1) (s.readReg rs2) (s.readReg rs3))))

/-- SVFPROC (R102). -/
def execSvfproc (rd : Reg) (u : UnitIx) (rs1 : Reg) (s : State) : Result :=
  let p := s.svfAt u
  let t := svfTaps s.cfg p (s.readReg rs1)
  withUnit (.svfproc rd u rs1) s
    (.next ((s.setSvf u (svfAdvance s.cfg p t)).writeReg rd (svfSelect p.mode t)))

end Sys2Proof.Machine
end

