-- ==== Sys2Proof/Machine/Dispatch.lean ====
section
/-! DEFINITION. The meaning of every command: one arm per constructor of Instr. -/

namespace Sys2Proof.Machine

def exec (i : Instr) (s : State) : Host.Outcome State Fault Refusal :=
  match i with
  | .nop => Sys2Proof.Machine.execNop s
  | .luih rd imm16 => Sys2Proof.Machine.execLuih rd imm16 s
  | .orlo rd imm16 => Sys2Proof.Machine.execOrlo rd imm16 s
  | .mov rd rs1 => Sys2Proof.Machine.execMov rd rs1 s
  | .svfcfg u mode rs1 rs2 rs3 => Sys2Proof.Machine.execSvfcfg u mode rs1 rs2 rs3 s
  | .svfproc rd u rs1 => Sys2Proof.Machine.execSvfproc rd u rs1 s
  | .pseed u rs1 => Sys2Proof.Machine.execPseed u rs1 s
  | .pnext rd u => Sys2Proof.Machine.execPnext rd u s
  | .white rd u => Sys2Proof.Machine.execWhite rd u s
  | .oscpitch u rs1 => Sys2Proof.Machine.execOscpitch u rs1 s
  | .oscstep u rs1 => Sys2Proof.Machine.execOscstep u rs1 s
  | .oscrst u rs1 => Sys2Proof.Machine.execOscrst u rs1 s
  | .oscsaw rd u => Sys2Proof.Machine.execOscsaw rd u s
  | .oscmode u mode => Sys2Proof.Machine.execOscmode u mode s
  | .bankmix rd b rs1 rs2 => Sys2Proof.Machine.execBankmix rd b rs1 rs2 s
  | .dcfg u rs1 => Sys2Proof.Machine.execDcfg u rs1 s
  | .dsetf u rs1 => Sys2Proof.Machine.execDsetf u rs1 s
  | .dsetd u rs1 => Sys2Proof.Machine.execDsetd u rs1 s
  | .dtick rd u rs1 rs2 => Sys2Proof.Machine.execDtick rd u rs1 rs2 s
  | .rescale rd rs1 rs2 rs3 => Sys2Proof.Machine.execRescale rd rs1 rs2 rs3 s
  | .resolve rd rs1 rs2 rs3 => Sys2Proof.Machine.execResolve rd rs1 rs2 rs3 s
  | .xfade rd rs1 rs2 rs3 => Sys2Proof.Machine.execXfade rd rs1 rs2 rs3 s

end Sys2Proof.Machine
end

