-- ==== Sys2Proof/Machine/Flags.lean ====
section
/-! DEFINITION. The status words the host reads. The block has no flags (spec/10_state.md R24): its only
status is the error record, packed into STATUS when it is read (R28). ID and CONFIG are hardwired (R26,
R27). -/

namespace Sys2Proof.Machine

/-- `STATUS`: ERR in bit 0, CAUSE in bits 7:4, every other bit 0 (R28). -/
def statusWord (s : State) : Word := (0#24) ++ s.cause ++ (0#3) ++ BitVec.ofBool s.err

/-- `ID`: "RJM" and revision 7 (R26). -/
def idWord : Word := (0x52#8) ++ (0x4A#8) ++ (0x4D#8) ++ (0x07#8)

/-- `CONFIG`: the parameters, LOG2_CAP highest, NUM_SVF lowest, bits 31:25 zero (R27). -/
def configWord (c : Config) : Word :=
  (0#7) ++ BitVec.ofNat 5 c.log2Cap ++ BitVec.ofNat 5 c.numDelay ++ BitVec.ofNat 5 c.numBank ++
    BitVec.ofNat 5 c.numPink ++ BitVec.ofNat 5 c.numSvf

end Sys2Proof.Machine
end

