-- ==== Sys2Proof/Machine/HostPort.lean ====
section
/-! DEFINITION. The host port (spec/10_state.md R25 to R32, spec/60_exceptions.md R215): what each of
the 256 word addresses reads as and what a write to it does. -/

namespace Sys2Proof.Machine

/-- Address of `ID` (R25). -/
def idAddr : BitVec 8 := 0x10#8
/-- Address of `CONFIG` (R25). -/
def configAddr : BitVec 8 := 0x11#8
/-- Address of `STATUS` (R25). -/
def statusAddr : BitVec 8 := 0x12#8
/-- Address of `ERRCMD` (R25). -/
def errCmdAddr : BitVec 8 := 0x13#8
/-- Address of `CMD` (R25). -/
def cmdAddr : BitVec 8 := 0x14#8
/-- Address of `RESET` (R25). -/
def resetAddr : BitVec 8 := 0x15#8

/-- The register a host address below 0x10 names: its low four bits (R25). -/
def regOfAddr (a : BitVec 8) : Reg := a.extractLsb' 0 4

/-- The word at a host address. `CMD`, `RESET` and the reserved addresses read 0 (R25, R30 to R32). -/
def hostWord (s : State) (a : BitVec 8) : Word :=
  if a < idAddr then s.readReg (regOfAddr a)
  else if a = idAddr then idWord
  else if a = configAddr then configWord s.cfg
  else if a = statusAddr then statusWord s
  else if a = errCmdAddr then s.errCmd
  else 0x00000000#32

/-- A host read returns the word and changes nothing else (R65). -/
def hostRead (a : BitVec 8) (s : State) : Result := .next { s with reply := some (hostWord s a) }

/-- A word written to CMD: decoded, then executed or rejected (R30, R92). -/
def command (c : Word) (s : State) : Result :=
  match decode c with
  | .ok i => exec i s
  | .illegal cause => .next (raiseIllegal cause c s)

/-- The reset action (R231), as one atomic step. The parameters are fixed for the life of the block,
and the host's pending transactions are the host's (log entry 2). -/
def resetBlock (s : State) : State := { State.resetOf s.cfg with port := s.port }

/-- A host write (R25, R28, R30, R31); read-only and reserved addresses ignore it. -/
def hostWrite (a : BitVec 8) (d : Word) (s : State) : Result :=
  if a < idAddr then .next (s.writeReg (regOfAddr a) d)
  else if a = statusAddr then .next (if d.getLsbD 0 then clearError s else s)
  else if a = cmdAddr then command d s
  else if a = resetAddr then .next (if d.getLsbD 0 then resetBlock s else s)
  else .next s

/-- One transaction, complete before the next (R64, R68). -/
def transact (t : HostTxn) (s : State) : Result :=
  match t with
  | .read a => hostRead a s
  | .write a d => hostWrite a d s

/-- The state in which a pending transaction is served: it has left the port and has no reply yet. -/
def takeTxn (rest : List HostTxn) (s : State) : State := { s with port := rest, reply := none }

/-- Serve the host's oldest pending transaction; with none pending the core is idle and keeps all
state (R214, R233). -/
def serve (s : State) : Result :=
  match s.port with
  | [] => .next s
  | t :: rest => transact t (takeTxn rest s)

/-- The host's next transaction is the write of command word `c` to CMD. -/
def issueCommand (c : Word) (s : State) : State := { s with port := .write cmdAddr c :: s.port }

end Sys2Proof.Machine
end

