-- ==== Sys2Proof/Machine/Step.lean ====
section
/-! DEFINITION. One step: the host's oldest pending transaction, or an idle step (spec/00_scope.md R6). -/

namespace Sys2Proof.Machine

/-- One step of the machine. -/
def step (s : State) : Host.Outcome State Fault Refusal := serve s

/-- The command word `w` stands where the next step takes its command from: the host is about to
write it to CMD (10_state.md R23, R30; log entry 2). -/
def State.withFetchWord (s : State) (nbits w : Nat) : State :=
  issueCommand (BitVec.ofNat 32 (w % 2 ^ nbits)) s

end Sys2Proof.Machine
end

