-- ==== Sys2Proof/Machine/Assembly.lean ====
section
/-! DEFINITION. The written form of commands and the pseudo-instructions (spec/30_encoding.md R90, R91). -/

namespace Sys2Proof.Machine

/-- `r0` to `r15`. -/
def regName (r : Reg) : String := "r" ++ toString r.toNat

/-- `u0` to `u15`. -/
def unitName (u : UnitIx) : String := "u" ++ toString u.toNat

/-- The bank of BANKMIX, `b0` to `b4`. -/
def bankName (b : UnitIx) : String := "b" ++ toString b.toNat

/-- MODE of SVFCFG. -/
def modeName : FilterMode → String
  | .lowpass => "LP"
  | .highpass => "HP"
  | .bandpass => "BP"

/-- FLAGS of OSCMODE. -/
def flagsName (mode : BitVec 2) : String :=
  match mode.toNat with
  | 0 => "0"
  | 1 => "OFFSET"
  | 2 => "INVERT"
  | _ => "OFFSET+INVERT"

/-- A mnemonic and its operands, separated as R90 writes them. -/
def asmLine (mnemonic : String) (operands : List String) : String :=
  match operands with
  | [] => mnemonic
  | _ => mnemonic ++ " " ++ String.intercalate ", " operands

/-- The line of assembly of a command, in the operand order of R90. -/
def assembly : Instr → String
  | .nop => asmLine "NOP" []
  | .luih rd imm16 => asmLine "LUIH" [regName rd, toString imm16.toNat]
  | .orlo rd imm16 => asmLine "ORLO" [regName rd, toString imm16.toNat]
  | .mov rd rs1 => asmLine "MOV" [regName rd, regName rs1]
  | .svfcfg u mode rs1 rs2 rs3 =>
    asmLine "SVFCFG" [unitName u, modeName mode, regName rs1, regName rs2, regName rs3]
  | .svfproc rd u rs1 => asmLine "SVFPROC" [regName rd, unitName u, regName rs1]
  | .pseed u rs1 => asmLine "PSEED" [unitName u, regName rs1]
  | .pnext rd u => asmLine "PNEXT" [regName rd, unitName u]
  | .white rd u => asmLine "WHITE" [regName rd, unitName u]
  | .oscpitch u rs1 => asmLine "OSCPITCH" [unitName u, regName rs1]
  | .oscstep u rs1 => asmLine "OSCSTEP" [unitName u, regName rs1]
  | .oscrst u rs1 => asmLine "OSCRST" [unitName u, regName rs1]
  | .oscsaw rd u => asmLine "OSCSAW" [regName rd, unitName u]
  | .oscmode u mode => asmLine "OSCMODE" [unitName u, flagsName mode]
  | .bankmix rd b rs1 rs2 => asmLine "BANKMIX" [regName rd, bankName b, regName rs1, regName rs2]
  | .dcfg u rs1 => asmLine "DCFG" [unitName u, regName rs1]
  | .dsetf u rs1 => asmLine "DSETF" [unitName u, regName rs1]
  | .dsetd u rs1 => asmLine "DSETD" [unitName u, regName rs1]
  | .dtick rd u rs1 rs2 => asmLine "DTICK" [regName rd, unitName u, regName rs1, regName rs2]
  | .rescale rd rs1 rs2 rs3 => asmLine "RESCALE" [regName rd, regName rs1, regName rs2, regName rs3]
  | .resolve rd rs1 rs2 rs3 => asmLine "RESOLVE" [regName rd, regName rs1, regName rs2, regName rs3]
  | .xfade rd rs1 rs2 rs3 => asmLine "XFADE" [regName rd, regName rs1, regName rs2, regName rs3]

/-! ### Pseudo-instructions (R91) -/

/-- `LI rd, b` for a 32-bit pattern: LUIH, then ORLO only where the low half is nonzero. -/
def expandLi (rd : Reg) (b : Word) : List Instr :=
  if b.extractLsb' 0 16 = 0#16 then [.luih rd (b.extractLsb' 16 16)]
  else [.luih rd (b.extractLsb' 16 16), .orlo rd (b.extractLsb' 0 16)]

/-- `CLR rd`. -/
def expandClr (rd : Reg) : List Instr := [.luih rd 0#16]

/-- `SVFLP uK, rs1, rs2, rs3`. -/
def expandSvflp (u : UnitIx) (rs1 rs2 rs3 : Reg) : List Instr := [.svfcfg u .lowpass rs1 rs2 rs3]

/-- `SVFHP uK, rs1, rs2, rs3`. -/
def expandSvfhp (u : UnitIx) (rs1 rs2 rs3 : Reg) : List Instr := [.svfcfg u .highpass rs1 rs2 rs3]

/-- `SVFBP uK, rs1, rs2, rs3`. -/
def expandSvfbp (u : UnitIx) (rs1 rs2 rs3 : Reg) : List Instr := [.svfcfg u .bandpass rs1 rs2 rs3]

end Sys2Proof.Machine
end

