-- ==== Sys2Proof/WellFormed.lean ====
section
/-! DEFINITION. Which commands a configured block executes: the unit index a command names lies
below the count of its family (spec/30_encoding.md R86). Register fields, immediates and filter modes
are legal at every value their types admit (R81, R84, R85). -/

namespace Sys2Proof

/-- R86: the unit index of a command is below its family's count in configuration `c`. -/
def Instr.wellFormed (c : Config) : Instr → Bool
  | .nop => true
  | .luih _ _ => true
  | .orlo _ _ => true
  | .mov _ _ => true
  | .svfcfg u _ _ _ _ => decide (u.toNat < c.numSvf)
  | .svfproc _ u _ => decide (u.toNat < c.numSvf)
  | .pseed u _ => decide (u.toNat < c.numPink)
  | .pnext _ u => decide (u.toNat < c.numPink)
  | .white _ u => decide (u.toNat < c.numPink)
  | .oscpitch u _ => decide (u.toNat < 3 * c.numBank)
  | .oscstep u _ => decide (u.toNat < 3 * c.numBank)
  | .oscrst u _ => decide (u.toNat < 3 * c.numBank)
  | .oscsaw _ u => decide (u.toNat < 3 * c.numBank)
  | .oscmode u _ => decide (u.toNat < 3 * c.numBank)
  | .bankmix _ b _ _ => decide (b.toNat < c.numBank)
  | .dcfg u _ => decide (u.toNat < c.numDelay)
  | .dsetf u _ => decide (u.toNat < c.numDelay)
  | .dsetd u _ => decide (u.toNat < c.numDelay)
  | .dtick _ u _ _ => decide (u.toNat < c.numDelay)
  | .rescale _ _ _ _ => true
  | .resolve _ _ _ _ => true
  | .xfade _ _ _ _ => true

end Sys2Proof
end

