-- ==== Sys2Proof/Safety.lean ====
section
/-! DEFINITION. The terms in which claims about the machine are made: legal configurations, the
invariants of the state, what a command may write, the opcode map as the spec lists it, and what it is
to be rounded correctly. -/

namespace Sys2Proof

/-- The legal ranges of R7's table. -/
abbrev Config.Legal (c : Config) : Prop :=
  (1 ≤ c.numSvf ∧ c.numSvf ≤ 16) ∧ (1 ≤ c.numPink ∧ c.numPink ≤ 16) ∧
  (1 ≤ c.numBank ∧ c.numBank ≤ 5) ∧ (1 ≤ c.numDelay ∧ c.numDelay ≤ 16) ∧
  (1 ≤ c.log2Cap ∧ c.log2Cap ≤ 24) ∧
  (F32.isFinite c.pinkRange = true ∧ F32.lt F32.zero c.pinkRange = true) ∧
  F32.lt c.resetLo c.resetHi = true ∧
  (F32.isNaN c.nanResult = true ∧ c.nanResult.getLsbD 22 = true)

/-! ### The opcode map of R82, as its table lists it -/

/-- A row of the opcode map. -/
structure OpRow where
  op : BitVec 6
  pattern : Word
  mask : Word
  deriving DecidableEq, Repr

/-- The map, in the table's order (30_encoding.md R82; spec/opcode_table.json). -/
def opcodeMap : List OpRow :=
  [⟨0x00#6, 0x00000000#32, 0xFFFFFFFF#32⟩, ⟨0x01#6, 0x04000000#32, 0xFC3F0000#32⟩,
   ⟨0x02#6, 0x08000000#32, 0xFC3F0000#32⟩, ⟨0x03#6, 0x0C000000#32, 0xFC03FFFF#32⟩,
   ⟨0x08#6, 0x20000000#32, 0xFFC0003C#32⟩, ⟨0x09#6, 0x24000000#32, 0xFC03FC3F#32⟩] ++
  [⟨0x10#6, 0x40000000#32, 0xFFC3FC3F#32⟩, ⟨0x11#6, 0x44000000#32, 0xFC3FFC3F#32⟩,
   ⟨0x12#6, 0x48000000#32, 0xFC3FFC3F#32⟩, ⟨0x18#6, 0x60000000#32, 0xFFC3FC3F#32⟩,
   ⟨0x19#6, 0x64000000#32, 0xFFC3FC3F#32⟩, ⟨0x1A#6, 0x68000000#32, 0xFFC3FC3F#32⟩] ++
  [⟨0x1B#6, 0x6C000000#32, 0xFC3FFC3F#32⟩, ⟨0x1C#6, 0x70000000#32, 0xFFFFFC3C#32⟩,
   ⟨0x1D#6, 0x74000000#32, 0xFC003C3F#32⟩, ⟨0x20#6, 0x80000000#32, 0xFFC3FC3F#32⟩,
   ⟨0x21#6, 0x84000000#32, 0xFFC3FC3F#32⟩, ⟨0x22#6, 0x88000000#32, 0xFFC3FC3F#32⟩] ++
  [⟨0x23#6, 0x8C000000#32, 0xFC003C3F#32⟩, ⟨0x28#6, 0xA0000000#32, 0xFC0003FF#32⟩,
   ⟨0x29#6, 0xA4000000#32, 0xFC0003FF#32⟩, ⟨0x2A#6, 0xA8000000#32, 0xFC0003FF#32⟩]

/-- The cause with which a block of configuration `c` rejects the command word `w`, none where it
executes it (R92). -/
def rejection (c : Config) (w : Word) : Option Cause :=
  match decode w with
  | .illegal cause => some cause
  | .ok i => if unitInRange c i then none else some .unitRange

/-! ### What a command may write -/

/-- The operand register a command writes: its `rd` where it has one (10_state.md R20). -/
def Instr.dest : Instr → Option Reg
  | .nop => none
  | .luih rd _ => some rd
  | .orlo rd _ => some rd
  | .mov rd _ => some rd
  | .svfcfg _ _ _ _ _ => none
  | .svfproc rd _ _ => some rd
  | .pseed _ _ => none
  | .pnext rd _ => some rd
  | .white rd _ => some rd
  | .oscpitch _ _ => none
  | .oscstep _ _ => none
  | .oscrst _ _ => none
  | .oscsaw rd _ => some rd
  | .oscmode _ _ => none
  | .bankmix rd _ _ _ => some rd
  | .dcfg _ _ => none
  | .dsetf _ _ => none
  | .dsetd _ _ => none
  | .dtick rd _ _ _ => some rd
  | .rescale rd _ _ _ => some rd
  | .resolve rd _ _ _ => some rd
  | .xfade rd _ _ _ => some rd

/-- A unit of the block. -/
inductive UnitName where
  | svf (k : UnitIx)
  | pink (k : UnitIx)
  | osc (j : UnitIx)
  | dly (k : UnitIx)
  deriving DecidableEq, Repr

/-- The unit whose state a command writes, the "written by" column of 10_state.md R33 to R40. -/
def Instr.target : Instr → Option UnitName
  | .nop => none
  | .luih _ _ => none
  | .orlo _ _ => none
  | .mov _ _ => none
  | .svfcfg u _ _ _ _ => some (.svf u)
  | .svfproc _ u _ => some (.svf u)
  | .pseed u _ => some (.pink u)
  | .pnext _ u => some (.pink u)
  | .white _ u => some (.pink u)
  | .oscpitch u _ => some (.osc u)
  | .oscstep u _ => some (.osc u)
  | .oscrst u _ => some (.osc u)
  | .oscsaw _ _ => none
  | .oscmode u _ => some (.osc u)
  | .bankmix _ _ _ _ => none
  | .dcfg u _ => some (.dly u)
  | .dsetf u _ => some (.dly u)
  | .dsetd u _ => some (.dly u)
  | .dtick _ u _ _ => some (.dly u)
  | .rescale _ _ _ _ => none
  | .resolve _ _ _ _ => none
  | .xfade _ _ _ _ => none

/-- The commands that write a delay space: DTICK stores one word, DCFG clears it (20_memory.md R60). -/
def Instr.storesTo : Instr → Option UnitIx
  | .nop => none
  | .luih _ _ => none
  | .orlo _ _ => none
  | .mov _ _ => none
  | .svfcfg _ _ _ _ _ => none
  | .svfproc _ _ _ => none
  | .pseed _ _ => none
  | .pnext _ _ => none
  | .white _ _ => none
  | .oscpitch _ _ => none
  | .oscstep _ _ => none
  | .oscrst _ _ => none
  | .oscsaw _ _ => none
  | .oscmode _ _ => none
  | .bankmix _ _ _ _ => none
  | .dcfg u _ => some u
  | .dsetf _ _ => none
  | .dsetd _ _ => none
  | .dtick _ u _ _ => some u
  | .rescale _ _ _ _ => none
  | .resolve _ _ _ _ => none
  | .xfade _ _ _ _ => none

namespace Machine

/-! ### Invariants of the state -/

/-- The error record (R28, R29, R202): clear while ERR is 0; while ERR is 1 it names a command word
this block rejects, and the cause it rejects it with. -/
def recordOk (s : State) : Prop :=
  if s.err then ∃ cause, rejection s.cfg s.errCmd = some cause ∧ s.cause = cause.code
  else s.cause = 0#4 ∧ s.errCmd = 0x00000000#32

/-- Every delay space is in canonical form within its `C` words, and its write index is in `0..C-1`
(R40). -/
def ringsOk (s : State) : Prop :=
  ∀ k : UnitIx, Memory.wf (s.dlyAt k).buf ∧ Memory.within s.cfg.capacity (s.dlyAt k).buf ∧
    (s.dlyAt k).w < s.cfg.capacity

/-- Every generator is nonzero (R35, R120). -/
def generatorsOk (s : State) : Prop := ∀ k : UnitIx, (s.pinkAt k).rng ≠ 0#32

/-- An oscillator's phase is below 1 or a NaN (R141). -/
def phaseOk (ph : Word) : Prop := F32.isNaN ph = true ∨ F32.lt ph F32.one = true

/-- An LFO phase is in `[0, 1)` or a NaN (R40, R165). -/
def lfoPhaseOk (ph : Word) : Prop :=
  F32.isNaN ph = true ∨ (F32.ge ph F32.zero = true ∧ F32.lt ph F32.one = true)

/-- Every phase of the block is wrapped. -/
def phasesOk (s : State) : Prop :=
  (∀ j : UnitIx, phaseOk (s.oscAt j).phase) ∧ ∀ k : UnitIx, lfoPhaseOk (s.dlyAt k).lfoPhase

/-! ### Sequences of commands -/

/-- Commands one after another, stopping where one stops. -/
def execAll : List Instr → State → Result
  | [], s => .next s
  | i :: rest, s =>
    match exec i s with
    | .next s' => execAll rest s'
    | .fault r => .fault r
    | .refused r => .refused r

/-- One frame per sample of a list (70_reset_and_hazards.md R235): the host writes the sample to `rs1`
and issues DTICK. -/
def tickAll (rd : Reg) (u : UnitIx) (rs1 rs2 : Reg) : List Word → State → Result
  | [], s => .next s
  | x :: rest, s =>
    match exec (.dtick rd u rs1 rs2) (s.writeReg rs1 x) with
    | .next s' => tickAll rd u rs1 rs2 rest s'
    | .fault r => .fault r
    | .refused r => .refused r

end Machine

namespace F32

/-- The real values from here on, in units of 2^-149, round to an infinity: the largest finite
magnitude and half a step more (R9). -/
def overflowAt : Nat := 2 ^ 277 - 2 ^ 252

/-- `r` is `num / den` units correctly rounded (R9): finite and as near as any finite binary32 is, with
an even pattern where two are equally near; or the infinity of `num`'s sign, where `num / den` is past
the largest finite magnitude by at least half a step. `den` is positive. -/
def RoundsTo (num : Int) (den : Nat) (r : Word) : Prop :=
  if isFinite r then
    |num| < overflowAt * den ∧
    (∀ z, isFinite z = true → |units r * den - num| ≤ |units z * den - num|) ∧
    (∀ z, isFinite z = true → units z ≠ units r →
      |units r * den - num| = |units z * den - num| → r.getLsbD 0 = false)
  else isInf r = true ∧ overflowAt * den ≤ |num| ∧ (sign r = true ↔ num < 0)

end F32

end Sys2Proof
end

