-- ==== Sys2Proof/Certificates/Slice0/Obligations.lean ====
section
/-! DEFINITION. The statements for the provers, one `def Obligations.<Name> : Prop` each. A docstring
names the rule of spec/ a statement formalises, or the log entry of a choice of the model's. -/

open Sys2Proof Sys2Proof.Machine

/-! ### Register moves (45_register_moves.md) -/

/-- R190: NOP changes nothing. -/
def Obligations.NopChangesNothing : Prop :=
  ∀ s : State, exec .nop s = .next s

/-- R191: LUIH places the immediate in bits 31:16 of `rd` and clears bits 15:0; nothing else changes. -/
def Obligations.LuihLoadsUpperHalf : Prop :=
  ∀ (rd : Reg) (imm16 : BitVec 16) (s : State),
    exec (.luih rd imm16) s = .next (s.writeReg rd (imm16 ++ 0#16))

/-- R192: ORLO sets in the low half of `rd` the bits the immediate has, and leaves every other bit of
`rd` and everything else. -/
def Obligations.OrloSetsLowerBits : Prop :=
  ∀ (rd : Reg) (imm16 : BitVec 16) (s : State),
    ∃ v : Word, exec (.orlo rd imm16) s = .next (s.writeReg rd v) ∧
      v.extractLsb' 16 16 = (s.readReg rd).extractLsb' 16 16 ∧
      v.extractLsb' 0 16 = (s.readReg rd).extractLsb' 0 16 ||| imm16

/-- R193: MOV copies the pattern of `rs1` to `rd`, NaN patterns kept; with `rd = rs1` it is a no-op. -/
def Obligations.MovCopiesPattern : Prop :=
  ∀ (rd rs1 : Reg) (s : State),
    exec (.mov rd rs1) s = .next (s.writeReg rd (s.readReg rs1)) ∧ exec (.mov rd rd) s = .next s

/-- R91: LI expands to commands that load any 32-bit pattern into `rd`, and CLR to one that clears it;
nothing else changes. -/
def Obligations.LiLoadsPattern : Prop :=
  ∀ (rd : Reg) (b : Word) (s : State),
    execAll (expandLi rd b) s = .next (s.writeReg rd b) ∧
    execAll (expandClr rd) s = .next (s.writeReg rd 0x00000000#32)

/-! ### State-variable filter (40_svf.md) -/

/-- R101 (with R103): SVFCFG records the configuration, sets `g = tan32((PI32 * fc) / fs)` and
`R = ONE - res`, and keeps the memories; nothing else changes. -/
def Obligations.SvfcfgConfiguresUnit : Prop :=
  ∀ (u : UnitIx) (mode : FilterMode) (rs1 rs2 rs3 : Reg) (s : State), u.toNat < s.cfg.numSvf →
    exec (.svfcfg u mode rs1 rs2 rs3) s = .next (s.setSvf u
      { mode := mode
        cutoff := s.readReg rs1
        res := s.readReg rs2
        sr := s.readReg rs3
        g := tan32 s.cfg (fdiv s.cfg (fmul s.cfg 0x40490FDB#32 (s.readReg rs1)) (s.readReg rs3))
        damping := fsub s.cfg 0x3F800000#32 (s.readReg rs2)
        z1 := (s.svfAt u).z1
        z2 := (s.svfAt u).z2 })

/-- R102: SVFPROC computes the taps in the order the rule writes, updates both memories and returns the
tap of the mode; nothing else changes. -/
def Obligations.SvfprocFiltersSample : Prop :=
  ∀ (rd : Reg) (u : UnitIx) (rs1 : Reg) (s : State), u.toNat < s.cfg.numSvf →
    let add := fadd s.cfg
    let mul := fmul s.cfg
    let p := s.svfAt u
    let twoR := add p.damping p.damping
    let a := add twoR p.g
    let den := add (add 0x3F800000#32 (mul twoR p.g)) (mul p.g p.g)
    let hp := fdiv s.cfg (fsub s.cfg (fsub s.cfg (s.readReg rs1) (mul a p.z1)) p.z2) den
    let bp := add (mul p.g hp) p.z1
    let lp := add (mul p.g bp) p.z2
    exec (.svfproc rd u rs1) s = .next
      ((s.setSvf u { p with z1 := add (mul p.g hp) bp, z2 := add (mul p.g bp) lp }).writeReg rd
        (match p.mode with
          | .lowpass => lp
          | .highpass => hp
          | .bandpass => bp))

/-- R34: with the reset state in the unit, SVFPROC of any finite input writes `+0.0` and leaves the unit
as it is. -/
def Obligations.SvfSilentAfterReset : Prop :=
  ∀ (rd : Reg) (u : UnitIx) (rs1 : Reg) (s : State), u.toNat < s.cfg.numSvf →
    s.svfAt u = ⟨.lowpass, 0#32, 0#32, 0#32, 0#32, 0x3F800000#32, 0#32, 0#32⟩ →
    F32.isFinite (s.readReg rs1) = true →
    exec (.svfproc rd u rs1) s = .next (s.writeReg rd 0x00000000#32)

/-! ### Pink noise (41_pink_noise.md) -/

/-- R123: PSEED loads the seed (0x9E3779B9 for 0), draws the five taps in order and clears the count;
nothing else changes. -/
def Obligations.PseedDrawsFiveTaps : Prop :=
  ∀ (u : UnitIx) (rs1 : Reg) (s : State), u.toNat < s.cfg.numPink →
    let seed := if s.readReg rs1 = 0#32 then 0x9E3779B9#32 else s.readReg rs1
    let r1 := xorshift32 seed
    let r2 := xorshift32 r1
    let r3 := xorshift32 r2
    let r4 := xorshift32 r3
    let r5 := xorshift32 r4
    exec (.pseed u rs1) s = .next (s.setPink u
      { count := 0#5
        taps := #v[tapValue s.cfg r1, tapValue s.cfg r2, tapValue s.cfg r3, tapValue s.cfg r4,
          tapValue s.cfg r5]
        rng := r5 })

/-- R124, R126: PNEXT steps the count modulo 32, redraws exactly the tap of the key bit that flips
(bit `ctz(n + 1)` below 31, bit 4 at 31), advances the generator once and returns the sum of the taps,
left to right; nothing else changes. -/
def Obligations.PnextRedrawsOneTap : Prop :=
  ∀ (rd : Reg) (u : UnitIx) (s : State), u.toNat < s.cfg.numPink →
    let p := s.pinkAt u
    let r := xorshift32 p.rng
    let n := p.count.toNat
    ∃ i : Fin 5, (if n = 31 then i.val = 4 else 2 ^ i.val ∣ n + 1 ∧ ¬ 2 ^ (i.val + 1) ∣ n + 1) ∧
      let taps := p.taps.set i.val (tapValue s.cfg r) i.isLt
      exec (.pnext rd u) s = .next
        ((s.setPink u { count := BitVec.ofNat 5 ((n + 1) % 32), taps := taps, rng := r }).writeReg rd
          (fadd s.cfg (fadd s.cfg (fadd s.cfg (fadd s.cfg taps[0] taps[1]) taps[2]) taps[3]) taps[4]))

/-- R125 (with R122): WHITE advances the generator once and returns `(n * 2^-24) * 2 - 1` for its top 24
bits `n`; taps, count and everything else are unchanged. -/
def Obligations.WhiteReturnsSample : Prop :=
  ∀ (rd : Reg) (u : UnitIx) (s : State), u.toNat < s.cfg.numPink →
    let r := xorshift32 (s.pinkAt u).rng
    exec (.white rd u) s = .next
      ((s.setPink u { s.pinkAt u with rng := r }).writeReg rd
        (fsub s.cfg (fmul s.cfg (fmul s.cfg (F32.ofNat (r >>> 8).toNat) 0x33800000#32) 0x40000000#32)
          0x3F800000#32))

/-- R120: one step of the generator xors in the word shifted left by 13, then right by 17, then left by
5; and it never takes a nonzero word to 0. -/
def Obligations.XorshiftStepsAndStaysNonzero : Prop :=
  ∀ r : Word,
    (let a := r ^^^ (r <<< 13)
     let b := a ^^^ (a >>> 17)
     xorshift32 r = b ^^^ (b <<< 5)) ∧
    (r ≠ 0#32 → xorshift32 r ≠ 0#32)

/-- R121: a drawn tap is `(f32(n) * 2^-24) * (PINK_RANGE / 5)` for the top 24 bits `n` of the word, the
first product exact; with PINK_RANGE 5.0 it is exactly `n * 2^-24` (`n * 2^125` units of 2^-149 each). -/
def Obligations.TapScalesTopBits : Prop :=
  ∀ (c : Config) (r : Word),
    let u01 := fmul c (F32.ofNat (r >>> 8).toNat) 0x33800000#32
    F32.isFinite u01 = true ∧ F32.units u01 = ((r >>> 8).toNat * 2 ^ 125 : Nat) ∧
    tapValue c r = fmul c u01 (fdiv c c.pinkRange 0x40A00000#32) ∧
    (c.pinkRange = 0x40A00000#32 →
      F32.isFinite (tapValue c r) = true ∧
      F32.units (tapValue c r) = ((r >>> 8).toNat * 2 ^ 125 : Nat))

/-- R122: the white draw is exact: `n * 2^-23 - 1` for the top 24 bits `n`. -/
def Obligations.WhiteDrawIsExact : Prop :=
  ∀ (c : Config) (r : Word), F32.isFinite (whiteValue c r) = true ∧
    F32.units (whiteValue c r) = (((r >>> 8).toNat : Int) - 2 ^ 23) * 2 ^ 126

/-- R124's corner case, the source's property: 32 consecutive PNEXT commands redraw every tap, so the
state they leave does not depend on the taps they found, and the count comes back. -/
def Obligations.ThirtyTwoPnextRedrawEveryTap : Prop :=
  ∀ (rd : Reg) (u : UnitIx) (taps : Vector Word 5) (s : State), u.toNat < s.cfg.numPink →
    ∃ t : State, execAll (List.replicate 32 (.pnext rd u)) s = .next t ∧
      execAll (List.replicate 32 (.pnext rd u)) (s.setPink u { s.pinkAt u with taps := taps }) =
        .next t ∧
      (t.pinkAt u).count = (s.pinkAt u).count

/-! ### Oscillator bank (42_oscillator_bank.md) -/

/-- R140: OSCPITCH sets `freq` to `exp2_32` of the pitch, unclamped; nothing else changes. -/
def Obligations.OscpitchSetsFrequency : Prop :=
  ∀ (u : UnitIx) (rs1 : Reg) (s : State), u.toNat < 3 * s.cfg.numBank →
    exec (.oscpitch u rs1) s =
      .next (s.setOsc u { s.oscAt u with freq := exp2_32 s.cfg (s.readReg rs1) })

/-- R141: from a phase below 1 or a NaN, OSCSTEP adds `minNum(freq * dt, 0.5)` and subtracts 1 at most
once; nothing else changes. -/
def Obligations.OscstepAdvancesPhase : Prop :=
  ∀ (u : UnitIx) (rs1 : Reg) (s : State), u.toNat < 3 * s.cfg.numBank →
    F32.isNaN s.cfg.nanResult = true → phaseOk (s.oscAt u).phase →
    let d := F32.minNum (fmul s.cfg (s.oscAt u).freq (s.readReg rs1)) 0x3F000000#32
    let ph := fadd s.cfg (s.oscAt u).phase d
    exec (.oscstep u rs1) s = .next (s.setOsc u
      { s.oscAt u with
        phase := if F32.ge ph 0x3F800000#32 then fsub s.cfg ph 0x3F800000#32 else ph })

/-- R142: OSCRST fires from LOW at or above RESET_HI, re-arms from HIGH at or below RESET_LO, and
otherwise changes nothing; a NaN signal changes nothing. -/
def Obligations.OscrstFollowsHysteresis : Prop :=
  ∀ (u : UnitIx) (rs1 : Reg) (s : State), u.toNat < 3 * s.cfg.numBank →
    let o := s.oscAt u
    let v := s.readReg rs1
    exec (.oscrst u rs1) s = .next
      (if o.trig = .low ∧ F32.ge v s.cfg.resetHi = true then
        s.setOsc u { o with trig := .high, phase := 0x00000000#32 }
       else if o.trig = .high ∧ F32.le v s.cfg.resetLo = true then s.setOsc u { o with trig := .low }
       else s) ∧
    (F32.isNaN v = true → exec (.oscrst u rs1) s = .next s)

/-- R144 (with R143): OSCSAW returns `2 * phase` in offset mode, else `2 * (phase - rha(phase))`, with
the sign bit flipped in invert mode; no oscillator changes. -/
def Obligations.OscsawReadsWaveform : Prop :=
  ∀ (rd : Reg) (u : UnitIx) (s : State), u.toNat < 3 * s.cfg.numBank →
    let o := s.oscAt u
    let v := if o.offset then fmul s.cfg 0x40000000#32 o.phase
      else fmul s.cfg 0x40000000#32 (fsub s.cfg o.phase (F32.rha o.phase))
    exec (.oscsaw rd u) s =
      .next (s.writeReg rd (if o.invert then v ^^^ 0x80000000#32 else v))

/-- R145 (with R85): OSCMODE sets offset from bit 0 and invert from bit 1; nothing else changes. -/
def Obligations.OscmodeSetsModeBits : Prop :=
  ∀ (u : UnitIx) (mode : BitVec 2) (s : State), u.toNat < 3 * s.cfg.numBank →
    exec (.oscmode u mode) s = .next (s.setOsc u
      { s.oscAt u with
        offset := decide (mode.toNat % 2 = 1), invert := decide (mode.toNat / 2 = 1) })

/-- R146: BANKMIX returns `5 * ((s0 + s1*m) + s2*(m/3))` with the third term left out unless the gate is
at least 0.5, over the voices `3b`, `3b+1`, `3b+2`; no oscillator changes. -/
def Obligations.BankmixWeighsVoices : Prop :=
  ∀ (rd : Reg) (b : UnitIx) (rs1 rs2 : Reg) (s : State), b.toNat < s.cfg.numBank → s.cfg.numBank ≤ 5 →
    let add := fadd s.cfg
    let mul := fmul s.cfg
    let saw := fun n : Nat => sawOut s.cfg (s.oscAt (BitVec.ofNat 4 (3 * b.toNat + n)))
    let m := s.readReg rs1
    let t := add (saw 0) (mul (saw 1) m)
    exec (.bankmix rd b rs1 rs2) s = .next (s.writeReg rd
      (mul 0x40A00000#32
        (if F32.le 0x3F000000#32 (s.readReg rs2) then add t (mul (saw 2) (fdiv s.cfg m 0x40400000#32))
         else t)))

/-- R142's corner case, the source's property: after a firing, OSCSAW of an oscillator with neither
offset nor invert set reads `+0.0` whatever the phase was. -/
def Obligations.FiredOscillatorReadsZero : Prop :=
  ∀ (rd : Reg) (u : UnitIx) (rs1 : Reg) (s : State), u.toNat < 3 * s.cfg.numBank →
    (s.oscAt u).trig = .low → F32.ge (s.readReg rs1) s.cfg.resetHi = true →
    (s.oscAt u).offset = false → (s.oscAt u).invert = false →
    ∃ t : State, execAll [.oscrst u rs1, .oscsaw rd u] s = .next t ∧
      t.readReg rd = 0x00000000#32 ∧ (t.oscAt u).phase = 0x00000000#32

/-! ### Delay lines (43_chorus_delay.md) -/

/-- R160 (with R76): DCFG sets the base delay, clears every word of the ring, and zeroes the write index
and the LFO phase; depth, LFO frequency and everything else are unchanged. -/
def Obligations.DcfgRestartsLine : Prop :=
  ∀ (u : UnitIx) (rs1 : Reg) (s : State), u.toNat < s.cfg.numDelay →
    ∃ d : DelayUnit, exec (.dcfg u rs1) s = .next (s.setDly u d) ∧
      (∀ i : Int, memRead s.cfg d i = 0x00000000#32) ∧ d.base = s.readReg rs1 ∧ d.w = 0 ∧
      d.lfoPhase = 0x00000000#32 ∧ d.depth = (s.dlyAt u).depth ∧ d.lfoFreq = (s.dlyAt u).lfoFreq

/-- R161, R162: DSETF sets the LFO frequency and DSETD the depth; nothing else changes. -/
def Obligations.DsetCommandsSetOneField : Prop :=
  ∀ (u : UnitIx) (rs1 : Reg) (s : State), u.toNat < s.cfg.numDelay →
    exec (.dsetf u rs1) s = .next (s.setDly u { s.dlyAt u with lfoFreq := s.readReg rs1 }) ∧
    exec (.dsetd u rs1) s = .next (s.setDly u { s.dlyAt u with depth := s.readReg rs1 })

/-- R163: DTICK writes the input at the write index, then reads the line at
`(f32(w) - B) - depth * sin32(TWOPI32 * lfoPhase)`, then advances the phase and the index; nothing else
changes. -/
def Obligations.DtickProcessesSample : Prop :=
  ∀ (rd : Reg) (u : UnitIx) (rs1 rs2 : Reg) (s : State), u.toNat < s.cfg.numDelay →
    let old := s.dlyAt u
    let d := memWrite s.cfg old old.w (s.readReg rs1)
    let m := fmul s.cfg old.depth (sin32 s.cfg (fmul s.cfg 0x40C90FDB#32 old.lfoPhase))
    let p := fsub s.cfg (fsub s.cfg (F32.ofNat old.w) old.base) m
    exec (.dtick rd u rs1 rs2) s = .next
      ((s.setDly u
        { d with
          lfoPhase := wrapPhase s.cfg (fadd s.cfg old.lfoPhase (fdiv s.cfg old.lfoFreq (s.readReg rs2)))
          w := (old.w + 1) % 2 ^ s.cfg.log2Cap }).writeReg rd (readInterp s.cfg d p))

/-- R60, R61, R163: DTICK stores one word, the input's pattern, at the write index of its own ring. Every
byte outside that word, and every byte of every other ring, reads as before. -/
def Obligations.DtickStoresOneWord : Prop :=
  ∀ (rd : Reg) (u : UnitIx) (rs1 rs2 : Reg) (s t : State), u.toNat < s.cfg.numDelay → ringsOk s →
    exec (.dtick rd u rs1 rs2) s = .next t →
    memRead s.cfg (t.dlyAt u) (s.dlyAt u).w = s.readReg rs1 ∧
    (∀ a : Nat, ¬ (4 * ringIndex s.cfg (s.dlyAt u).w ≤ a ∧ a < 4 * ringIndex s.cfg (s.dlyAt u).w + 4) →
      Memory.readByte (t.dlyAt u).buf a = Memory.readByte (s.dlyAt u).buf a) ∧
    ∀ (k : UnitIx) (a : Nat), k ≠ u →
      Memory.readByte (t.dlyAt k).buf a = Memory.readByte (s.dlyAt k).buf a

/-- R164: the read at a position that is not finite is 0x7FC00000; at an integer position it is the
stored word, bit for bit; and between the integers `n` and `n + 1` it is `b0 + (f * (b1 - b0))` for the
words `b0` and `b1` at `n` and `n + 1` modulo `C` and `f = p - floor32(p)`. -/
def Obligations.InterpolatedReadFollowsRule : Prop :=
  ∀ (c : Config) (d : DelayUnit) (p : Word),
    (F32.isFinite p = false → readInterp c d p = 0x7FC00000#32) ∧
    (∀ n : Int, F32.isFinite p = true → F32.units p = n * 2 ^ 149 →
      readInterp c d p = Memory.readWord d.buf (n % (2 ^ c.log2Cap : Nat)).toNat) ∧
    ∀ n : Int, F32.isFinite p = true → n * 2 ^ 149 < F32.units p → F32.units p < (n + 1) * 2 ^ 149 →
      let b0 := Memory.readWord d.buf (n % (2 ^ c.log2Cap : Nat)).toNat
      let b1 := Memory.readWord d.buf ((n + 1) % (2 ^ c.log2Cap : Nat)).toNat
      readInterp c d p = fadd c b0 (fmul c (fsub c p (F32.floor32 p)) (fsub c b1 b0))

/-- R165: a NaN or a phase in `[0, 1)` is left alone; any other value becomes `v - floor32(v)`, or `+0.0`
where that rounds to 1.0, which makes an infinity a NaN; so a wrapped phase is in `[0, 1)` or a NaN. -/
def Obligations.WrapPhaseFollowsRule : Prop :=
  ∀ (c : Config) (v : Word), F32.isNaN c.nanResult = true →
    lfoPhaseOk (wrapPhase c v) ∧
    (lfoPhaseOk v → wrapPhase c v = v) ∧
    (F32.ge v 0x3F800000#32 = true ∨ F32.lt v 0x00000000#32 = true →
      let v' := fsub c v (F32.floor32 v)
      wrapPhase c v = if F32.ge v' 0x3F800000#32 then 0x00000000#32 else v') ∧
    (F32.isInf v = true → wrapPhase c v = c.nanResult)

/-- R163's corner case: with depth 0 and an integer base delay `n` in `[0, C-1]`, DTICK returns the
sample written `n` ticks before, and the input itself for `n = 0`. -/
def Obligations.DtickIntegerDelay : Prop :=
  ∀ (rd : Reg) (u : UnitIx) (rs1 rs2 : Reg) (n : Nat) (s : State), u.toNat < s.cfg.numDelay →
    s.cfg.log2Cap ≤ 24 → ringsOk s → n < 2 ^ s.cfg.log2Cap →
    (s.dlyAt u).base = F32.ofNat n → F32.isZero (s.dlyAt u).depth = true →
    F32.isFinite (sin32 s.cfg (fmul s.cfg 0x40C90FDB#32 (s.dlyAt u).lfoPhase)) = true →
    ∃ t : State, exec (.dtick rd u rs1 rs2) s = .next t ∧
      t.readReg rd = if n = 0 then s.readReg rs1
        else Memory.readWord (s.dlyAt u).buf
          (((s.dlyAt u).w + 2 ^ s.cfg.log2Cap - n) % 2 ^ s.cfg.log2Cap)

/-- The source's property in R163, for an LFO at rest and `rs2` neither `rs1` nor `rd`: from a line just
restarted with base delay `n` in `[0, C-1]`, depth 0 and LFO frequency 0, the output of sample N is the
input of sample `N - n`, and `+0.0` for `N < n`. -/
def Obligations.FixedDelayLine : Prop :=
  ∀ (rd : Reg) (u : UnitIx) (rs1 rs2 : Reg) (n : Nat) (xs : List Word) (s : State),
    u.toNat < s.cfg.numDelay → s.cfg.log2Cap ≤ 24 → n < 2 ^ s.cfg.log2Cap → rs1 ≠ rs2 → rd ≠ rs2 →
    s.dlyAt u = ⟨[], 0, F32.ofNat n, 0#32, 0#32, 0#32⟩ →
    F32.isNaN (s.readReg rs2) = false → F32.isZero (s.readReg rs2) = false → xs ≠ [] →
    ∃ t : State, tickAll rd u rs1 rs2 xs s = .next t ∧
      t.readReg rd = if xs.length - 1 < n then 0x00000000#32 else xs.getD (xs.length - 1 - n) 0#32

/-! ### Parameter mapper (44_parameter_mapper.md) -/

/-- R180: RESCALE reads `oldMax` and `newMax` from the registers after `rs2` and `rs3`, modulo 16, and
returns `newMin + (((v - oldMin) / (oldMax - oldMin)) * (newMax - newMin))`; nothing else changes. -/
def Obligations.RescaleMapsRange : Prop :=
  ∀ (rd rs1 rs2 rs3 : Reg) (s : State),
    let after := fun r : Reg => s.readReg (BitVec.ofNat 4 ((r.toNat + 1) % 16))
    exec (.rescale rd rs1 rs2 rs3) s = .next (s.writeReg rd
      (fadd s.cfg (s.readReg rs3)
        (fmul s.cfg
          (fdiv s.cfg (fsub s.cfg (s.readReg rs1) (s.readReg rs2))
            (fsub s.cfg (after rs2) (s.readReg rs2)))
          (fsub s.cfg (after rs3) (s.readReg rs3)))))

/-- R182, R183: RESOLVE returns `clamp01(cv / nv) * p` and XFADE `(wet * wf) + (dry * (1 - wf))`;
nothing else changes. -/
def Obligations.ResolveAndXfadeCompute : Prop :=
  ∀ (rd rs1 rs2 rs3 : Reg) (s : State),
    exec (.resolve rd rs1 rs2 rs3) s = .next (s.writeReg rd
      (fmul s.cfg (clamp01 (fdiv s.cfg (s.readReg rs2) (s.readReg rs3))) (s.readReg rs1))) ∧
    exec (.xfade rd rs1 rs2 rs3) s = .next (s.writeReg rd
      (fadd s.cfg (fmul s.cfg (s.readReg rs2) (s.readReg rs3))
        (fmul s.cfg (s.readReg rs1) (fsub s.cfg 0x3F800000#32 (s.readReg rs3)))))

/-- R181: `clamp01` gives `+0` for a NaN or a negative value, 1.0 above 1.0, and anything else as it is;
so its result is in `[0, 1]` and never a NaN. -/
def Obligations.Clamp01InUnitInterval : Prop :=
  ∀ q : Word,
    F32.le 0x00000000#32 (clamp01 q) = true ∧ F32.le (clamp01 q) 0x3F800000#32 = true ∧
    (F32.isNaN q = true ∨ F32.lt q 0x00000000#32 = true → clamp01 q = 0x00000000#32) ∧
    (F32.lt 0x3F800000#32 q = true → clamp01 q = 0x3F800000#32) ∧
    (F32.le 0x00000000#32 q = true → F32.le q 0x3F800000#32 = true → clamp01 q = q)

/-- R183's corner case: a wet fraction of 0 gives the value of `dry` where `wet` is finite, and 1 gives
the value of `wet` where `dry` is finite. -/
def Obligations.XfadeEndpoints : Prop :=
  ∀ (c : Config) (dry wet : Word), F32.isNaN dry = false → F32.isNaN wet = false →
    (F32.isFinite wet = true → F32.eq (crossfade c dry wet 0x00000000#32) dry = true) ∧
    (F32.isFinite dry = true → F32.eq (crossfade c dry wet 0x3F800000#32) wet = true)

/-! ### Arithmetic (00_scope.md R9 to R15) -/

/-- R9: the sum and the difference of finite operands are the exact ones, correctly rounded. An exact zero
sum is `+0` unless both operands are negative (IEEE 754's, log entry 14). -/
def Obligations.AddAndSubRoundToNearestEven : Prop :=
  ∀ nan a b : Word, F32.isFinite a = true → F32.isFinite b = true →
    F32.RoundsTo (F32.units a + F32.units b) 1 (F32.add nan a b) ∧
    F32.RoundsTo (F32.units a - F32.units b) 1 (F32.sub nan a b) ∧
    (F32.units a + F32.units b = 0 →
      F32.add nan a b = if F32.sign a && F32.sign b then 0x80000000#32 else 0x00000000#32)

/-- R9: the product of finite operands is the exact product, correctly rounded, with the sign of the
signs' exclusive or, for a zero too. -/
def Obligations.MulRoundsToNearestEven : Prop :=
  ∀ nan a b : Word, F32.isFinite a = true → F32.isFinite b = true →
    F32.RoundsTo (F32.units a * F32.units b) (2 ^ 149) (F32.mul nan a b) ∧
    F32.sign (F32.mul nan a b) = (F32.sign a != F32.sign b)

/-- R9: the quotient of finite operands, the divisor not zero, is the exact quotient, correctly
rounded, with the sign of the signs' exclusive or. -/
def Obligations.DivRoundsToNearestEven : Prop :=
  ∀ nan a b : Word, F32.isFinite a = true → F32.isFinite b = true → F32.isZero b = false →
    F32.RoundsTo (F32.units a * 2 ^ 149 * (F32.units b).sign) (F32.units b).natAbs (F32.div nan a b) ∧
    F32.sign (F32.div nan a b) = (F32.sign a != F32.sign b)

/-- R9, R11: division of a nonzero finite value by zero is an infinity of the right sign; `0/0`,
`inf - inf`, `0 * inf`, `inf / inf` and any operation on a NaN give NAN_RESULT; and an infinity
propagates through a sum, a difference, a product and a quotient with its sign, a finite value over an
infinity being a zero (IEEE 754's, log entry 14). -/
def Obligations.SpecialOperandsFollowIeee : Prop :=
  ∀ nan a b : Word,
    let signedInf := if F32.sign a = F32.sign b then 0x7F800000#32 else 0xFF800000#32
    let signedZero := if F32.sign a = F32.sign b then 0x00000000#32 else 0x80000000#32
    (F32.isFinite a = true → F32.isZero a = false → F32.isZero b = true →
      F32.div nan a b = signedInf) ∧
    (F32.isZero a = true → F32.isZero b = true → F32.div nan a b = nan) ∧
    (F32.isZero a = true → F32.isInf b = true → F32.mul nan a b = nan ∧ F32.mul nan b a = nan) ∧
    (F32.isInf a = true → F32.isInf b = true →
      F32.div nan a b = nan ∧ F32.mul nan a b = signedInf ∧
      (F32.sign a = F32.sign b → F32.add nan a b = a ∧ F32.sub nan a b = nan) ∧
      (F32.sign a ≠ F32.sign b → F32.add nan a b = nan ∧ F32.sub nan a b = a)) ∧
    (F32.isInf a = true → F32.isFinite b = true →
      F32.add nan a b = a ∧ F32.add nan b a = a ∧ F32.sub nan a b = a ∧
      F32.sub nan b a = F32.neg a ∧ F32.div nan a b = signedInf ∧
      (F32.isZero b = false → F32.mul nan a b = signedInf ∧ F32.mul nan b a = signedInf)) ∧
    (F32.isFinite a = true → F32.isInf b = true → F32.div nan a b = signedZero) ∧
    (F32.isNaN a = true ∨ F32.isNaN b = true → F32.add nan a b = nan ∧ F32.sub nan a b = nan ∧
      F32.mul nan a b = nan ∧ F32.div nan a b = nan)

/-- R10: unary minus flips bit 31 and nothing else, for zeros and NaNs too. R12, with the layout of R8: a
NaN is an exponent field of ones with a nonzero fraction, a finite value any other exponent field, worth
its sign, fraction and exponent; on numbers a comparison is
that of the values, the infinities beyond every finite one; with a NaN it is false; and `+0 == -0`. -/
def Obligations.NegationAndComparison : Prop :=
  (∀ v : Word, (F32.neg v).getLsbD 31 = (!v.getLsbD 31) ∧
    ∀ i : Nat, i < 31 → (F32.neg v).getLsbD i = v.getLsbD i) ∧
  (∀ v : Word,
    (F32.isNaN v = true ↔ v.extractLsb' 23 8 = 0xFF#8 ∧ v.extractLsb' 0 23 ≠ 0#23) ∧
    (F32.isFinite v = true ↔ v.extractLsb' 23 8 ≠ 0xFF#8) ∧
    (F32.isFinite v = true →
      let e := (v.extractLsb' 23 8).toNat
      let f := (v.extractLsb' 0 23).toNat
      F32.units v = (if v.getLsbD 31 then -1 else 1) *
        ((if e = 0 then f else (2 ^ 23 + f) * 2 ^ (e - 1) : Nat) : Int) ∧
      F32.lt v 0x7F800000#32 = true ∧ F32.lt 0xFF800000#32 v = true)) ∧
  (∀ a b : Word, F32.isNaN a = false → F32.isNaN b = false →
    (F32.lt a b = true ↔ F32.units a < F32.units b) ∧
    (F32.le a b = true ↔ F32.units a ≤ F32.units b) ∧
    (F32.gt a b = true ↔ F32.units b < F32.units a) ∧
    (F32.ge a b = true ↔ F32.units b ≤ F32.units a) ∧
    (F32.eq a b = true ↔ F32.units a = F32.units b)) ∧
  (∀ a b : Word, F32.isNaN a = true ∨ F32.isNaN b = true →
    F32.lt a b = false ∧ F32.le a b = false ∧ F32.gt a b = false ∧ F32.ge a b = false ∧
      F32.eq a b = false) ∧
  F32.eq 0x00000000#32 0x80000000#32 = true

/-- R13: `floor32` of a finite value is the largest integer not above it, of an infinity, a NaN or a zero
the value itself; `rha` of a finite value is the nearest integer, halves away from zero, with its sign, of
an infinity or a NaN the value itself; `minNum` answers the other operand for a NaN, else the lesser,
the second where neither is less; `f32(n)` is exact up to 2^24 and `int` is the integer. -/
def Obligations.HelperFunctionsFollowRule : Prop :=
  (∀ v : Word, F32.isFinite v = true →
    (F32.isFinite (F32.floor32 v) = true ∧
      ∃ n : Int, F32.units (F32.floor32 v) = n * 2 ^ 149 ∧
        n * 2 ^ 149 ≤ F32.units v ∧ F32.units v < (n + 1) * 2 ^ 149) ∧
    (F32.isFinite (F32.rha v) = true ∧ F32.sign (F32.rha v) = F32.sign v ∧
      ∃ n : Nat, F32.magUnits (F32.mag (F32.rha v)) = n * 2 ^ 149 ∧
        2 * n * 2 ^ 149 ≤ 2 * F32.magUnits (F32.mag v) + 2 ^ 149 ∧
        2 * F32.magUnits (F32.mag v) + 2 ^ 149 < 2 * (n + 1) * 2 ^ 149) ∧
    ∀ n : Int, F32.units v = n * 2 ^ 149 → F32.toInt v = n) ∧
  (∀ v : Word, (F32.isFinite v = false → F32.floor32 v = v ∧ F32.rha v = v) ∧
    (F32.isZero v = true → F32.floor32 v = v)) ∧
  (∀ a b : Word,
    (F32.isNaN a = true → F32.minNum a b = b) ∧
    (F32.isNaN a = false → F32.isNaN b = true → F32.minNum a b = a) ∧
    (F32.isNaN a = false → F32.isNaN b = false →
      F32.minNum a b = if F32.units a < F32.units b then a else b)) ∧
  ∀ n : Nat, n ≤ 2 ^ 24 → F32.isFinite (F32.ofNat n) = true ∧ F32.sign (F32.ofNat n) = false ∧
    F32.units (F32.ofNat n) = n * 2 ^ 149

/-- R15: what every configuration of the transcendental functions satisfies: zeros, NaNs, infinities, and
exact powers of two at the integers in `[-126, 127]`. R7: each function is a parameter of its own: it does
not depend on the other two, and elsewhere a function given by its values answers the value it lists
(the form of the parameters, and +inf for `exp2_32` of 128 or more, are log entry 7). -/
def Obligations.TranscendentalsFollowConfiguration : Prop :=
  ∀ (c c' : Config) (v : Word),
    tan32 c 0x00000000#32 = 0x00000000#32 ∧ sin32 c 0x00000000#32 = 0x00000000#32 ∧
    exp2_32 c 0x7F800000#32 = 0x7F800000#32 ∧ exp2_32 c 0xFF800000#32 = 0x00000000#32 ∧
    (F32.isNaN v = true → F32.isNaN (tan32 c v) = true ∧ F32.isNaN (sin32 c v) = true ∧
      F32.isNaN (exp2_32 c v) = true) ∧
    (F32.isInf v = true → F32.isNaN (tan32 c v) = true ∧ F32.isNaN (sin32 c v) = true) ∧
    (∀ n : Int, F32.isFinite v = true → F32.units v = n * 2 ^ 149 → -126 ≤ n → n ≤ 127 →
      F32.units (exp2_32 c v) = 2 ^ (n + 149).toNat) ∧
    (c.nanResult = c'.nanResult →
      (c.tanFn = c'.tanFn → tan32 c v = tan32 c' v) ∧
      (c.sinFn = c'.sinFn → sin32 c v = sin32 c' v) ∧
      (c.exp2Fn = c'.exp2Fn → exp2_32 c v = exp2_32 c' v)) ∧
    ∀ (points : List (Word × Word)) (y : Word), F32.isFinite v = true → points.lookup v = some y →
      (c.tanFn = .given points → v ≠ 0x00000000#32 → tan32 c v = y) ∧
      (c.sinFn = .given points → v ≠ 0x00000000#32 → sin32 c v = y) ∧
      (c.exp2Fn = .given points → F32.units v < 128 * 2 ^ 149 →
        (∀ n : Int, -126 ≤ n → n ≤ 127 → F32.units v ≠ n * 2 ^ 149) → exp2_32 c v = y)

/-! ### Encoding (30_encoding.md) -/

/-- R80 to R93: decoding the encoding of any command, with every operand at every value, gives the
command back. -/
def Obligations.DecodeEncodeAgree : Prop :=
  ∀ i : Instr, decode (encode i) = .ok i

/-- R83, R89: a word the decoder accepts is the encoding of what it reads; no bit of a word is dropped
and no two words give one command. -/
def Obligations.EncodeDecodeAgree : Prop :=
  ∀ (w : Word) (i : Instr), decode w = .ok i → encode i = w

/-- R92, R204 (checks 1 to 3, with R83, R84, R87): a word is rejected with ILLEGAL_OPCODE where no row of
the opcode map has its opcode, with RESERVED_FIELD where its row's masked bits differ, with
RESERVED_MODE where it is an otherwise legal SVFCFG with mode 3, and for no other reason. That `decode`
never answers UNIT_RANGE is the model's choice: the fourth check of R92 stands in the meanings (log
entry 11; `UnitOutOfRangeIsRejected`). -/
def Obligations.DecoderFollowsOpcodeMap : Prop :=
  ∀ w : Word,
    (decode w = .illegal .illegalOpcode ↔ ∀ r ∈ opcodeMap, w.extractLsb' 26 6 ≠ r.op) ∧
    (decode w = .illegal .reservedField ↔
      ∃ r ∈ opcodeMap, w.extractLsb' 26 6 = r.op ∧ w &&& r.mask ≠ r.pattern) ∧
    (decode w = .illegal .reservedMode ↔
      w &&& 0xFFC0003C#32 = 0x20000000#32 ∧ w.extractLsb' 0 2 = 3#2) ∧
    decode w ≠ .illegal .unitRange

/-- Words written out from R90 and R93, and the commands they are. -/
def Obligations.SampleWordsDecode : Prop :=
  decode 0x25040000#32 = .ok (.svfproc 4 0 1) ∧
  decode 0x20048C41#32 = .ok (.svfcfg 1 .highpass 1 2 3) ∧
  decode 0x04403F80#32 = .ok (.luih 1 0x3F80#16) ∧
  decode 0x70000083#32 = .ok (.oscmode 2 3) ∧
  decode 0x48C00000#32 = .ok (.white 3 0) ∧
  decode 0x8D0C8000#32 = .ok (.dtick 4 0 3 2) ∧
  decode 0xA0049000#32 = .ok (.rescale 0 1 2 4)

/-! ### Steps, the host port and the exception (10_state.md, 60_exceptions.md, 70_reset_and_hazards.md) -/

/-- R30, R92: when the host's next transaction writes to CMD a word that decodes, the step is that
command at the state with the transaction taken off the port. The port is the model's (log entry 2). -/
def Obligations.StepRunsDecodedCommand : Prop :=
  ∀ (s : State) (w : Word) (rest : List HostTxn) (i : Instr),
    s.port = .write 0x14#8 w :: rest → decode w = .ok i →
    step s = exec i { s with port := rest, reply := none }

/-- R202, R203, R206: a rejected word is recorded with its cause where ERR was clear, is not recorded
where it was set, and has no other effect. The port is the model's (log entry 2). -/
def Obligations.RejectedWordIsRecorded : Prop :=
  ∀ (s : State) (w : Word) (rest : List HostTxn) (cause : Cause),
    s.port = .write 0x14#8 w :: rest → rejection s.cfg w = some cause →
    step s = .next (if s.err then { s with port := rest, reply := none }
      else { s with port := rest, reply := none, err := true, cause := cause.code, errCmd := w })

/-- R86, R92, R202, R203: a command naming a unit at or above its family's count is rejected with
UNIT_RANGE, code 4, recording its own word where ERR was clear, and has no other effect. That `exec`
makes this check, and that ERRCMD takes `encode i` as the written word, is the model's choice (log
entry 11). -/
def Obligations.UnitOutOfRangeIsRejected : Prop :=
  ∀ (i : Instr) (s : State), i.wellFormed s.cfg = false →
    exec i s = .next (if s.err then s
      else { s with err := true, cause := 4#4, errCmd := encode i })

/-- R202, R207: while ERR is set, no write to CMD, of any word, changes the record. -/
def Obligations.CommandsKeepRecordedError : Prop :=
  ∀ (s t : State) (w : Word), s.err = true → command w s = .next t →
    t.err = true ∧ t.cause = s.cause ∧ t.errCmd = s.errCmd

/-- R25 to R32: what each host address reads as: the registers, ID, CONFIG (the parameters of a legal
configuration in its five fields), STATUS (ERR in bit 0, CAUSE in bits 7:4), ERRCMD, and 0 elsewhere. -/
def Obligations.HostMapReads : Prop :=
  ∀ s : State,
    (∀ r : Reg, hostWord s (r.setWidth 8) = s.readReg r) ∧
    hostWord s 0x10#8 = 0x524A4D07#32 ∧
    (s.cfg.Legal → (hostWord s 0x11#8).toNat = s.cfg.numSvf + 2 ^ 5 * s.cfg.numPink +
      2 ^ 10 * s.cfg.numBank + 2 ^ 15 * s.cfg.numDelay + 2 ^ 20 * s.cfg.log2Cap) ∧
    hostWord s 0x12#8 = BitVec.ofNat 32 (s.cause.toNat * 16 + s.err.toNat) ∧
    hostWord s 0x13#8 = s.errCmd ∧ hostWord s 0x14#8 = 0#32 ∧ hostWord s 0x15#8 = 0#32 ∧
    ∀ a : BitVec 8, 0x16#8 ≤ a → hostWord s a = 0#32

/-- R20, R25, R28, R31, R32, R207: a host write sets the register at its address; a write of STATUS with
bit 0 set clears ERR, CAUSE and ERRCMD and nothing else; one to a read-only or reserved address, or to
STATUS or RESET with bit 0 clear, changes nothing. -/
def Obligations.HostMapWrites : Prop :=
  ∀ (d : Word) (s : State),
    (∀ r : Reg, hostWrite (r.setWidth 8) d s = .next (s.writeReg r d)) ∧
    hostWrite 0x12#8 d s = .next
      (if d.getLsbD 0 then { s with err := false, cause := 0#4, errCmd := 0x00000000#32 } else s) ∧
    hostWrite 0x10#8 d s = .next s ∧ hostWrite 0x11#8 d s = .next s ∧ hostWrite 0x13#8 d s = .next s ∧
    (d.getLsbD 0 = false → hostWrite 0x15#8 d s = .next s) ∧
    ∀ a : BitVec 8, 0x16#8 ≤ a → hostWrite a d s = .next s

/-- R30, R65, R68, R214, R233: a step serves the oldest pending transaction: a host read changes nothing but
what was returned, which is the word at the address, and a host write, to any address, is `hostWrite`
there (`HostMapWrites`, `ResetWriteResetsEverything`), which returns nothing; with no transaction pending
the core is idle and keeps all state. The port and the reply are the model's (log entries 2 and 3). -/
def Obligations.StepServesOldestTransaction : Prop :=
  ∀ s : State,
    (∀ (a : BitVec 8) (rest : List HostTxn), s.port = .read a :: rest →
      step s = .next { s with port := rest, reply := some (hostWord s a) }) ∧
    (∀ (a : BitVec 8) (d : Word) (rest : List HostTxn), s.port = .write a d :: rest →
      step s = hostWrite a d { s with port := rest, reply := none }) ∧
    (s.port = [] → step s = .next s)

/-- R230 to R232, R36: a write of RESET with bit 0 set gives every piece of state its reset value, whatever
it held: each pink unit `k` is seeded with `0x9E3779B9 ^ k` and its five taps are drawn in order. It
leaves the parameters, and the host's pending transactions, which are the model's (log entry 2). -/
def Obligations.ResetWriteResetsEverything : Prop :=
  ∀ (d : Word) (s : State), d.getLsbD 0 = true →
    ∃ t : State, hostWrite 0x15#8 d s = .next t ∧ t.cfg = s.cfg ∧ t.port = s.port ∧
      (∀ r : Reg, t.readReg r = 0x00000000#32) ∧
      t.err = false ∧ t.cause = 0#4 ∧ t.errCmd = 0x00000000#32 ∧
      (∀ k : UnitIx, t.svfAt k = ⟨.lowpass, 0#32, 0#32, 0#32, 0#32, 0x3F800000#32, 0#32, 0#32⟩) ∧
      (∀ j : UnitIx, t.oscAt j = ⟨0#32, 0x3F800000#32, false, false, .low⟩) ∧
      (∀ k : UnitIx, t.dlyAt k = ⟨[], 0, 0#32, 0#32, 0#32, 0#32⟩) ∧
      ∀ k : UnitIx,
        let r1 := xorshift32 (0x9E3779B9#32 ^^^ BitVec.ofNat 32 k.toNat)
        let r2 := xorshift32 r1
        let r3 := xorshift32 r2
        let r4 := xorshift32 r3
        let r5 := xorshift32 r4
        t.pinkAt k =
          { count := 0#5
            taps := #v[tapValue s.cfg r1, tapValue s.cfg r2, tapValue s.cfg r3, tapValue s.cfg r4,
              tapValue s.cfg r5]
            rng := r5 }

/-! ### Frames -/

/-- R43, R60: a command that gives a next state changes no unit but the one it names, no parameter and
nothing of the host's. Only DTICK and DCFG reach a delay space: after any other command, and in any ring
these two do not name, every byte reads as before. -/
def Obligations.CommandWritesOnlyItsUnit : Prop :=
  ∀ (i : Instr) (s t : State), exec i s = .next t →
    (∀ k, i.target ≠ some (.svf k) → t.svfAt k = s.svfAt k) ∧
    (∀ k, i.target ≠ some (.pink k) → t.pinkAt k = s.pinkAt k) ∧
    (∀ j, i.target ≠ some (.osc j) → t.oscAt j = s.oscAt j) ∧
    (∀ k, i.target ≠ some (.dly k) → t.dlyAt k = s.dlyAt k) ∧
    (∀ k a, i.storesTo ≠ some k →
      Memory.readByte (t.dlyAt k).buf a = Memory.readByte (s.dlyAt k).buf a) ∧
    t.cfg = s.cfg ∧ t.port = s.port ∧ t.reply = s.reply

/-- R20, R43, R203: a command that gives a next state changes no register but its `rd`, none at all where
its unit is out of range; and it changes the error record only where its unit is out of range. -/
def Obligations.CommandWritesOnlyItsRegister : Prop :=
  ∀ (i : Instr) (s t : State), exec i s = .next t →
    (∀ r, i.dest ≠ some r → t.readReg r = s.readReg r) ∧
    (i.wellFormed s.cfg = false → ∀ r, t.readReg r = s.readReg r) ∧
    (i.wellFormed s.cfg = true → t.err = s.err ∧ t.cause = s.cause ∧ t.errCmd = s.errCmd)

/-! ### Invariants of every step (a step serves one transaction of the port, log entry 2) -/

/-- R28, R29, R201, R202: every step keeps the error record right: clear while ERR is 0, and while ERR is
1 naming a command word this block rejects with the cause recorded. -/
def Obligations.StepKeepsErrorRecord : Prop :=
  ∀ s t : State, recordOk s → step s = .next t → recordOk t

/-- R40, R61, R75: every step keeps every ring in canonical form within its `C` words and every write
index in `0..C-1`. -/
def Obligations.StepKeepsRings : Prop :=
  ∀ s t : State, ringsOk s → step s = .next t → ringsOk t

/-- R35, R120, R141, R165: every step keeps every generator nonzero, every oscillator phase below 1 or a
NaN, and every LFO phase in `[0, 1)` or a NaN. -/
def Obligations.StepKeepsUnitsInRange : Prop :=
  ∀ s t : State, F32.isNaN s.cfg.nanResult = true → generatorsOk s → phasesOk s → step s = .next t →
    generatorsOk t ∧ phasesOk t

/-- R141, R200, R203: from phases as every step keeps them, no step stops: whatever the host's next
transaction, there is a next state, and the parameters are kept (R44). -/
def Obligations.StepNeverStops : Prop :=
  ∀ s : State, F32.isNaN s.cfg.nanResult = true → phasesOk s →
    ∃ t : State, step s = .next t ∧ t.cfg = s.cfg

/-- R231: the state after reset, in every configuration, meets every invariant above. That reset of the
model takes the reference configuration is log entry 1. -/
def Obligations.ResetMeetsInvariants : Prop :=
  (∀ c : Config, recordOk (State.resetOf c) ∧ ringsOk (State.resetOf c) ∧
    generatorsOk (State.resetOf c) ∧ phasesOk (State.resetOf c)) ∧
  State.reset = State.resetOf Config.reference ∧ Config.reference.Legal
end

