-- ==== Sys2Proof/Laws/Encoding.lean ====
section
/-! SUPPORT. Each bit of an encoded command word, and each field the decoder reads back from it
(spec/30_encoding.md R80, R93). -/

namespace Sys2Proof

/-- Bit `i` of a format R word. -/
theorem formatR_getLsbD (op : BitVec 6) (rd rs1 rs2 rs3 : Reg) (u : UnitIx) (imm6 : BitVec 6)
    (i : Nat) :
    (formatR op rd rs1 rs2 rs3 u imm6).getLsbD i =
      if i < 6 then imm6.getLsbD i else if i < 10 then u.getLsbD (i - 6)
      else if i < 14 then rs3.getLsbD (i - 10) else if i < 18 then rs2.getLsbD (i - 14)
      else if i < 22 then rs1.getLsbD (i - 18) else if i < 26 then rd.getLsbD (i - 22)
      else op.getLsbD (i - 26) := by
  show @BitVec.getLsbD (6 + 4 + 4 + 4 + 4 + 4 + 6) (op ++ rd ++ rs1 ++ rs2 ++ rs3 ++ u ++ imm6) i = _
  simp only [BitVec.getLsbD_append, Nat.sub_sub]
  split_ifs <;> first | rfl | omega

/-- Bit `i` of a format I word. -/
theorem formatI_getLsbD (op : BitVec 6) (rd : Reg) (imm16 : BitVec 16) (i : Nat) :
    (formatI op rd imm16).getLsbD i =
      if i < 16 then imm16.getLsbD i else if i < 22 then false
      else if i < 26 then rd.getLsbD (i - 22) else op.getLsbD (i - 26) := by
  show @BitVec.getLsbD (6 + 4 + 6 + 16) (op ++ rd ++ 0#6 ++ imm16) i = _
  simp only [BitVec.getLsbD_append, Nat.sub_sub, BitVec.getLsbD_zero]
  split_ifs <;> first | rfl | omega

section FormatR

variable (op : BitVec 6) (rd rs1 rs2 rs3 : Reg) (u : UnitIx) (imm6 : BitVec 6)

@[simp] theorem opField_formatR : opField (formatR op rd rs1 rs2 rs3 u imm6) = op := by
  apply BitVec.eq_of_getLsbD_eq
  intro i hi
  rw [opField, BitVec.getLsbD_extractLsb', formatR_getLsbD]
  interval_cases i <;> simp

@[simp] theorem rdField_formatR : rdField (formatR op rd rs1 rs2 rs3 u imm6) = rd := by
  apply BitVec.eq_of_getLsbD_eq
  intro i hi
  rw [rdField, BitVec.getLsbD_extractLsb', formatR_getLsbD]
  interval_cases i <;> simp

@[simp] theorem rs1Field_formatR : rs1Field (formatR op rd rs1 rs2 rs3 u imm6) = rs1 := by
  apply BitVec.eq_of_getLsbD_eq
  intro i hi
  rw [rs1Field, BitVec.getLsbD_extractLsb', formatR_getLsbD]
  interval_cases i <;> simp

@[simp] theorem rs2Field_formatR : rs2Field (formatR op rd rs1 rs2 rs3 u imm6) = rs2 := by
  apply BitVec.eq_of_getLsbD_eq
  intro i hi
  rw [rs2Field, BitVec.getLsbD_extractLsb', formatR_getLsbD]
  interval_cases i <;> simp

@[simp] theorem rs3Field_formatR : rs3Field (formatR op rd rs1 rs2 rs3 u imm6) = rs3 := by
  apply BitVec.eq_of_getLsbD_eq
  intro i hi
  rw [rs3Field, BitVec.getLsbD_extractLsb', formatR_getLsbD]
  interval_cases i <;> simp

@[simp] theorem unitField_formatR : unitField (formatR op rd rs1 rs2 rs3 u imm6) = u := by
  apply BitVec.eq_of_getLsbD_eq
  intro i hi
  rw [unitField, BitVec.getLsbD_extractLsb', formatR_getLsbD]
  interval_cases i <;> simp

end FormatR

section FormatI

variable (op : BitVec 6) (rd : Reg) (imm16 : BitVec 16)

@[simp] theorem opField_formatI : opField (formatI op rd imm16) = op := by
  apply BitVec.eq_of_getLsbD_eq
  intro i hi
  rw [opField, BitVec.getLsbD_extractLsb', formatI_getLsbD]
  interval_cases i <;> simp

@[simp] theorem rdField_formatI : rdField (formatI op rd imm16) = rd := by
  apply BitVec.eq_of_getLsbD_eq
  intro i hi
  rw [rdField, BitVec.getLsbD_extractLsb', formatI_getLsbD]
  interval_cases i <;> simp

@[simp] theorem imm16Field_formatI : imm16Field (formatI op rd imm16) = imm16 := by
  apply BitVec.eq_of_getLsbD_eq
  intro i hi
  rw [imm16Field, BitVec.getLsbD_extractLsb', formatI_getLsbD]
  interval_cases i <;> simp

end FormatI

end Sys2Proof
end

