-- ==== Sys2Proof/Laws/Float.lean ====
section
/-! SUPPORT. The small lemmas of the binary32 layout and of rounding (spec/00_scope.md R8 to R12). -/

namespace Sys2Proof.F32

/-! ### The layout -/

theorem mag_lt (v : Word) : mag v < 2 ^ 31 := Nat.mod_lt _ (by decide)

theorem pack_toNat (neg : Bool) (m : Nat) (h : m < 2 ^ 31) :
    (pack neg m).toNat = if neg then 2 ^ 31 + m else m := by
  cases neg <;> simp [pack, BitVec.toNat_ofNat]
  all_goals omega

@[simp] theorem mag_pack (neg : Bool) (m : Nat) (h : m < 2 ^ 31) : mag (pack neg m) = m := by
  unfold mag
  rw [pack_toNat neg m h]
  cases neg
  · simp; omega
  · simp; omega

@[simp] theorem sign_pack (neg : Bool) (m : Nat) (h : m < 2 ^ 31) : sign (pack neg m) = neg := by
  unfold sign
  rw [BitVec.msb_eq_decide, pack_toNat neg m h]
  cases neg
  · simp; omega
  · simp

/-- Every pattern is a NaN, an infinity or finite. -/
theorem classes (v : Word) : isNaN v = true ∨ isInf v = true ∨ isFinite v = true := by
  simp only [isNaN, isInf, isFinite, decide_eq_true_eq]
  omega

theorem isFinite_not_isNaN {v : Word} (h : isFinite v = true) : isNaN v = false := by
  simp only [isFinite, isNaN, decide_eq_true_eq, decide_eq_false_iff_not] at *
  omega

theorem isFinite_not_isInf {v : Word} (h : isFinite v = true) : isInf v = false := by
  simp only [isFinite, isInf, decide_eq_true_eq, decide_eq_false_iff_not] at *
  omega

theorem isInf_not_isNaN {v : Word} (h : isInf v = true) : isNaN v = false := by
  simp only [isInf, isNaN, decide_eq_true_eq, decide_eq_false_iff_not] at *
  omega

/-! ### Rounding -/

/-- Rounding gives at most the infinity. -/
theorem roundMag_le (num den : Nat) : roundMag num den ≤ 0x7F800000 := Nat.min_le_right _ _

/-- Rounding never makes a NaN. -/
theorem isNaN_round (neg : Bool) (num den : Nat) : isNaN (round neg num den) = false := by
  have h := roundMag_le num den
  unfold isNaN round
  rw [mag_pack neg _ (by omega)]
  simp only [decide_eq_false_iff_not]
  omega

@[simp] theorem sign_round (neg : Bool) (num den : Nat) : sign (round neg num den) = neg := by
  have h := roundMag_le num den
  exact sign_pack neg _ (by omega)

/-- The quotient rounded is the floor or the floor and one. -/
theorem quotNearestEven_cases (num den : Nat) :
    quotNearestEven num den = num / den ∨ quotNearestEven num den = num / den + 1 := by
  unfold quotNearestEven
  split <;> simp

/-! ### NaNs (R9, R11, R12) -/

theorem add_nan (nan a b : Word) (h : isNaN a = true ∨ isNaN b = true) : add nan a b = nan := by
  rcases h with h | h <;> simp [add, h]

theorem mul_nan (nan a b : Word) (h : isNaN a = true ∨ isNaN b = true) : mul nan a b = nan := by
  rcases h with h | h <;> simp [mul, h]

theorem div_nan (nan a b : Word) (h : isNaN a = true ∨ isNaN b = true) : div nan a b = nan := by
  rcases h with h | h <;> simp [div, h]

theorem lt_nan (a b : Word) (h : isNaN a = true ∨ isNaN b = true) : lt a b = false := by
  rcases h with h | h <;> simp [lt, h]

theorem le_nan (a b : Word) (h : isNaN a = true ∨ isNaN b = true) : le a b = false := by
  rcases h with h | h <;> simp [le, h]

/-! ### Finite operands: one rounding of the exact result (R9) -/

theorem add_finite {nan a b : Word} (ha : isFinite a = true) (hb : isFinite b = true)
    (hz : units a + units b ≠ 0) :
    add nan a b = round (decide (units a + units b < 0)) (units a + units b).natAbs 1 := by
  simp [add, isFinite_not_isNaN ha, isFinite_not_isNaN hb, isFinite_not_isInf ha,
    isFinite_not_isInf hb, hz]

theorem mul_finite {nan a b : Word} (ha : isFinite a = true) (hb : isFinite b = true) :
    mul nan a b = round (sign a != sign b) (magUnits (mag a) * magUnits (mag b)) unit1 := by
  simp [mul, isFinite_not_isNaN ha, isFinite_not_isNaN hb, isFinite_not_isInf ha,
    isFinite_not_isInf hb]

theorem div_finite {nan a b : Word} (ha : isFinite a = true) (hb : isFinite b = true)
    (hz : isZero b = false) :
    div nan a b = round (sign a != sign b) (magUnits (mag a) * unit1) (magUnits (mag b)) := by
  simp [div, isFinite_not_isNaN ha, isFinite_not_isNaN hb, isFinite_not_isInf ha,
    isFinite_not_isInf hb, hz]

end Sys2Proof.F32
end

