-- ==== Sys2Proof/Laws/State.lean ====
section
/-! SUPPORT. What each update of the state does to each field, one lemma per field, and reading one of
sixteen slots after writing one. No later proof unfolds a record update. -/

namespace Sys2Proof.Machine

/-! ### Slots -/

@[simp] theorem slot_setSlot_same {α : Type} (v : Vector α 16) (i : BitVec 4) (x : α) :
    slot (setSlot v i x) i = x := by
  simp [slot, setSlot]

theorem slot_setSlot_ne {α : Type} (v : Vector α 16) (i j : BitVec 4) (x : α) (h : j ≠ i) :
    slot (setSlot v i x) j = slot v j := by
  have : i.toNat ≠ j.toNat := fun e => h (BitVec.eq_of_toNat_eq e.symm)
  simp [slot, setSlot, this]

theorem slot_setSlot {α : Type} (v : Vector α 16) (i j : BitVec 4) (x : α) :
    slot (setSlot v i x) j = if j = i then x else slot v j := by
  split
  · next h => rw [h, slot_setSlot_same]
  · next h => exact slot_setSlot_ne v i j x h

@[simp] theorem slot_replicate {α : Type} (x : α) (i : BitVec 4) :
    slot (Vector.replicate 16 x) i = x := by
  simp [slot]

theorem setSlot_setSlot_same {α : Type} (v : Vector α 16) (i : BitVec 4) (x y : α) :
    setSlot (setSlot v i x) i y = setSlot v i y := by
  simp [setSlot]

/-! ### writeReg -/

@[simp] theorem writeReg_cfg (s : State) (i : Reg) (v : Word) :
    (s.writeReg i v).cfg = s.cfg := rfl

@[simp] theorem writeReg_regs (s : State) (i : Reg) (v : Word) :
    (s.writeReg i v).regs = setSlot s.regs i v := rfl

@[simp] theorem writeReg_err (s : State) (i : Reg) (v : Word) :
    (s.writeReg i v).err = s.err := rfl

@[simp] theorem writeReg_cause (s : State) (i : Reg) (v : Word) :
    (s.writeReg i v).cause = s.cause := rfl

@[simp] theorem writeReg_errCmd (s : State) (i : Reg) (v : Word) :
    (s.writeReg i v).errCmd = s.errCmd := rfl

@[simp] theorem writeReg_svf (s : State) (i : Reg) (v : Word) :
    (s.writeReg i v).svf = s.svf := rfl

@[simp] theorem writeReg_pink (s : State) (i : Reg) (v : Word) :
    (s.writeReg i v).pink = s.pink := rfl

@[simp] theorem writeReg_osc (s : State) (i : Reg) (v : Word) :
    (s.writeReg i v).osc = s.osc := rfl

@[simp] theorem writeReg_dly (s : State) (i : Reg) (v : Word) :
    (s.writeReg i v).dly = s.dly := rfl

@[simp] theorem writeReg_port (s : State) (i : Reg) (v : Word) :
    (s.writeReg i v).port = s.port := rfl

@[simp] theorem writeReg_reply (s : State) (i : Reg) (v : Word) :
    (s.writeReg i v).reply = s.reply := rfl

/-! ### setSvf -/

@[simp] theorem setSvf_cfg (s : State) (k : UnitIx) (x : SvfUnit) :
    (s.setSvf k x).cfg = s.cfg := rfl

@[simp] theorem setSvf_regs (s : State) (k : UnitIx) (x : SvfUnit) :
    (s.setSvf k x).regs = s.regs := rfl

@[simp] theorem setSvf_err (s : State) (k : UnitIx) (x : SvfUnit) :
    (s.setSvf k x).err = s.err := rfl

@[simp] theorem setSvf_cause (s : State) (k : UnitIx) (x : SvfUnit) :
    (s.setSvf k x).cause = s.cause := rfl

@[simp] theorem setSvf_errCmd (s : State) (k : UnitIx) (x : SvfUnit) :
    (s.setSvf k x).errCmd = s.errCmd := rfl

@[simp] theorem setSvf_svf (s : State) (k : UnitIx) (x : SvfUnit) :
    (s.setSvf k x).svf = setSlot s.svf k x := rfl

@[simp] theorem setSvf_pink (s : State) (k : UnitIx) (x : SvfUnit) :
    (s.setSvf k x).pink = s.pink := rfl

@[simp] theorem setSvf_osc (s : State) (k : UnitIx) (x : SvfUnit) :
    (s.setSvf k x).osc = s.osc := rfl

@[simp] theorem setSvf_dly (s : State) (k : UnitIx) (x : SvfUnit) :
    (s.setSvf k x).dly = s.dly := rfl

@[simp] theorem setSvf_port (s : State) (k : UnitIx) (x : SvfUnit) :
    (s.setSvf k x).port = s.port := rfl

@[simp] theorem setSvf_reply (s : State) (k : UnitIx) (x : SvfUnit) :
    (s.setSvf k x).reply = s.reply := rfl

/-! ### setPink -/

@[simp] theorem setPink_cfg (s : State) (k : UnitIx) (x : PinkUnit) :
    (s.setPink k x).cfg = s.cfg := rfl

@[simp] theorem setPink_regs (s : State) (k : UnitIx) (x : PinkUnit) :
    (s.setPink k x).regs = s.regs := rfl

@[simp] theorem setPink_err (s : State) (k : UnitIx) (x : PinkUnit) :
    (s.setPink k x).err = s.err := rfl

@[simp] theorem setPink_cause (s : State) (k : UnitIx) (x : PinkUnit) :
    (s.setPink k x).cause = s.cause := rfl

@[simp] theorem setPink_errCmd (s : State) (k : UnitIx) (x : PinkUnit) :
    (s.setPink k x).errCmd = s.errCmd := rfl

@[simp] theorem setPink_svf (s : State) (k : UnitIx) (x : PinkUnit) :
    (s.setPink k x).svf = s.svf := rfl

@[simp] theorem setPink_pink (s : State) (k : UnitIx) (x : PinkUnit) :
    (s.setPink k x).pink = setSlot s.pink k x := rfl

@[simp] theorem setPink_osc (s : State) (k : UnitIx) (x : PinkUnit) :
    (s.setPink k x).osc = s.osc := rfl

@[simp] theorem setPink_dly (s : State) (k : UnitIx) (x : PinkUnit) :
    (s.setPink k x).dly = s.dly := rfl

@[simp] theorem setPink_port (s : State) (k : UnitIx) (x : PinkUnit) :
    (s.setPink k x).port = s.port := rfl

@[simp] theorem setPink_reply (s : State) (k : UnitIx) (x : PinkUnit) :
    (s.setPink k x).reply = s.reply := rfl

/-! ### setOsc -/

@[simp] theorem setOsc_cfg (s : State) (j : UnitIx) (x : OscUnit) :
    (s.setOsc j x).cfg = s.cfg := rfl

@[simp] theorem setOsc_regs (s : State) (j : UnitIx) (x : OscUnit) :
    (s.setOsc j x).regs = s.regs := rfl

@[simp] theorem setOsc_err (s : State) (j : UnitIx) (x : OscUnit) :
    (s.setOsc j x).err = s.err := rfl

@[simp] theorem setOsc_cause (s : State) (j : UnitIx) (x : OscUnit) :
    (s.setOsc j x).cause = s.cause := rfl

@[simp] theorem setOsc_errCmd (s : State) (j : UnitIx) (x : OscUnit) :
    (s.setOsc j x).errCmd = s.errCmd := rfl

@[simp] theorem setOsc_svf (s : State) (j : UnitIx) (x : OscUnit) :
    (s.setOsc j x).svf = s.svf := rfl

@[simp] theorem setOsc_pink (s : State) (j : UnitIx) (x : OscUnit) :
    (s.setOsc j x).pink = s.pink := rfl

@[simp] theorem setOsc_osc (s : State) (j : UnitIx) (x : OscUnit) :
    (s.setOsc j x).osc = setSlot s.osc j x := rfl

@[simp] theorem setOsc_dly (s : State) (j : UnitIx) (x : OscUnit) :
    (s.setOsc j x).dly = s.dly := rfl

@[simp] theorem setOsc_port (s : State) (j : UnitIx) (x : OscUnit) :
    (s.setOsc j x).port = s.port := rfl

@[simp] theorem setOsc_reply (s : State) (j : UnitIx) (x : OscUnit) :
    (s.setOsc j x).reply = s.reply := rfl

/-! ### setDly -/

@[simp] theorem setDly_cfg (s : State) (k : UnitIx) (x : DelayUnit) :
    (s.setDly k x).cfg = s.cfg := rfl

@[simp] theorem setDly_regs (s : State) (k : UnitIx) (x : DelayUnit) :
    (s.setDly k x).regs = s.regs := rfl

@[simp] theorem setDly_err (s : State) (k : UnitIx) (x : DelayUnit) :
    (s.setDly k x).err = s.err := rfl

@[simp] theorem setDly_cause (s : State) (k : UnitIx) (x : DelayUnit) :
    (s.setDly k x).cause = s.cause := rfl

@[simp] theorem setDly_errCmd (s : State) (k : UnitIx) (x : DelayUnit) :
    (s.setDly k x).errCmd = s.errCmd := rfl

@[simp] theorem setDly_svf (s : State) (k : UnitIx) (x : DelayUnit) :
    (s.setDly k x).svf = s.svf := rfl

@[simp] theorem setDly_pink (s : State) (k : UnitIx) (x : DelayUnit) :
    (s.setDly k x).pink = s.pink := rfl

@[simp] theorem setDly_osc (s : State) (k : UnitIx) (x : DelayUnit) :
    (s.setDly k x).osc = s.osc := rfl

@[simp] theorem setDly_dly (s : State) (k : UnitIx) (x : DelayUnit) :
    (s.setDly k x).dly = setSlot s.dly k x := rfl

@[simp] theorem setDly_port (s : State) (k : UnitIx) (x : DelayUnit) :
    (s.setDly k x).port = s.port := rfl

@[simp] theorem setDly_reply (s : State) (k : UnitIx) (x : DelayUnit) :
    (s.setDly k x).reply = s.reply := rfl

/-! ### clearError -/

@[simp] theorem clearError_cfg (s : State) :
    (clearError s).cfg = s.cfg := rfl

@[simp] theorem clearError_regs (s : State) :
    (clearError s).regs = s.regs := rfl

@[simp] theorem clearError_err (s : State) :
    (clearError s).err = false := rfl

@[simp] theorem clearError_cause (s : State) :
    (clearError s).cause = 0#4 := rfl

@[simp] theorem clearError_errCmd (s : State) :
    (clearError s).errCmd = 0x00000000#32 := rfl

@[simp] theorem clearError_svf (s : State) :
    (clearError s).svf = s.svf := rfl

@[simp] theorem clearError_pink (s : State) :
    (clearError s).pink = s.pink := rfl

@[simp] theorem clearError_osc (s : State) :
    (clearError s).osc = s.osc := rfl

@[simp] theorem clearError_dly (s : State) :
    (clearError s).dly = s.dly := rfl

@[simp] theorem clearError_port (s : State) :
    (clearError s).port = s.port := rfl

@[simp] theorem clearError_reply (s : State) :
    (clearError s).reply = s.reply := rfl

/-! ### takeTxn -/

@[simp] theorem takeTxn_cfg (s : State) (rest : List HostTxn) :
    (takeTxn rest s).cfg = s.cfg := rfl

@[simp] theorem takeTxn_regs (s : State) (rest : List HostTxn) :
    (takeTxn rest s).regs = s.regs := rfl

@[simp] theorem takeTxn_err (s : State) (rest : List HostTxn) :
    (takeTxn rest s).err = s.err := rfl

@[simp] theorem takeTxn_cause (s : State) (rest : List HostTxn) :
    (takeTxn rest s).cause = s.cause := rfl

@[simp] theorem takeTxn_errCmd (s : State) (rest : List HostTxn) :
    (takeTxn rest s).errCmd = s.errCmd := rfl

@[simp] theorem takeTxn_svf (s : State) (rest : List HostTxn) :
    (takeTxn rest s).svf = s.svf := rfl

@[simp] theorem takeTxn_pink (s : State) (rest : List HostTxn) :
    (takeTxn rest s).pink = s.pink := rfl

@[simp] theorem takeTxn_osc (s : State) (rest : List HostTxn) :
    (takeTxn rest s).osc = s.osc := rfl

@[simp] theorem takeTxn_dly (s : State) (rest : List HostTxn) :
    (takeTxn rest s).dly = s.dly := rfl

@[simp] theorem takeTxn_port (s : State) (rest : List HostTxn) :
    (takeTxn rest s).port = rest := rfl

@[simp] theorem takeTxn_reply (s : State) (rest : List HostTxn) :
    (takeTxn rest s).reply = none := rfl

/-! ### issueCommand -/

@[simp] theorem issueCommand_cfg (s : State) (c : Word) :
    (issueCommand c s).cfg = s.cfg := rfl

@[simp] theorem issueCommand_regs (s : State) (c : Word) :
    (issueCommand c s).regs = s.regs := rfl

@[simp] theorem issueCommand_err (s : State) (c : Word) :
    (issueCommand c s).err = s.err := rfl

@[simp] theorem issueCommand_cause (s : State) (c : Word) :
    (issueCommand c s).cause = s.cause := rfl

@[simp] theorem issueCommand_errCmd (s : State) (c : Word) :
    (issueCommand c s).errCmd = s.errCmd := rfl

@[simp] theorem issueCommand_svf (s : State) (c : Word) :
    (issueCommand c s).svf = s.svf := rfl

@[simp] theorem issueCommand_pink (s : State) (c : Word) :
    (issueCommand c s).pink = s.pink := rfl

@[simp] theorem issueCommand_osc (s : State) (c : Word) :
    (issueCommand c s).osc = s.osc := rfl

@[simp] theorem issueCommand_dly (s : State) (c : Word) :
    (issueCommand c s).dly = s.dly := rfl

@[simp] theorem issueCommand_port (s : State) (c : Word) :
    (issueCommand c s).port = .write cmdAddr c :: s.port := rfl

@[simp] theorem issueCommand_reply (s : State) (c : Word) :
    (issueCommand c s).reply = s.reply := rfl

/-! ### resetBlock -/

@[simp] theorem resetBlock_cfg (s : State) :
    (resetBlock s).cfg = s.cfg := rfl

@[simp] theorem resetBlock_regs (s : State) :
    (resetBlock s).regs = (State.resetOf s.cfg).regs := rfl

@[simp] theorem resetBlock_err (s : State) :
    (resetBlock s).err = false := rfl

@[simp] theorem resetBlock_cause (s : State) :
    (resetBlock s).cause = 0#4 := rfl

@[simp] theorem resetBlock_errCmd (s : State) :
    (resetBlock s).errCmd = 0x00000000#32 := rfl

@[simp] theorem resetBlock_svf (s : State) :
    (resetBlock s).svf = (State.resetOf s.cfg).svf := rfl

@[simp] theorem resetBlock_pink (s : State) :
    (resetBlock s).pink = (State.resetOf s.cfg).pink := rfl

@[simp] theorem resetBlock_osc (s : State) :
    (resetBlock s).osc = (State.resetOf s.cfg).osc := rfl

@[simp] theorem resetBlock_dly (s : State) :
    (resetBlock s).dly = (State.resetOf s.cfg).dly := rfl

@[simp] theorem resetBlock_port (s : State) :
    (resetBlock s).port = s.port := rfl

@[simp] theorem resetBlock_reply (s : State) :
    (resetBlock s).reply = none := rfl

/-! ### raiseIllegal -/

@[simp] theorem raiseIllegal_cfg (cause : Cause) (c : Word) (s : State) :
    (raiseIllegal cause c s).cfg = s.cfg := by
  unfold raiseIllegal; split <;> rfl

@[simp] theorem raiseIllegal_regs (cause : Cause) (c : Word) (s : State) :
    (raiseIllegal cause c s).regs = s.regs := by
  unfold raiseIllegal; split <;> rfl

@[simp] theorem raiseIllegal_svf (cause : Cause) (c : Word) (s : State) :
    (raiseIllegal cause c s).svf = s.svf := by
  unfold raiseIllegal; split <;> rfl

@[simp] theorem raiseIllegal_pink (cause : Cause) (c : Word) (s : State) :
    (raiseIllegal cause c s).pink = s.pink := by
  unfold raiseIllegal; split <;> rfl

@[simp] theorem raiseIllegal_osc (cause : Cause) (c : Word) (s : State) :
    (raiseIllegal cause c s).osc = s.osc := by
  unfold raiseIllegal; split <;> rfl

@[simp] theorem raiseIllegal_dly (cause : Cause) (c : Word) (s : State) :
    (raiseIllegal cause c s).dly = s.dly := by
  unfold raiseIllegal; split <;> rfl

@[simp] theorem raiseIllegal_port (cause : Cause) (c : Word) (s : State) :
    (raiseIllegal cause c s).port = s.port := by
  unfold raiseIllegal; split <;> rfl

@[simp] theorem raiseIllegal_reply (cause : Cause) (c : Word) (s : State) :
    (raiseIllegal cause c s).reply = s.reply := by
  unfold raiseIllegal; split <;> rfl

@[simp] theorem raiseIllegal_err (cause : Cause) (c : Word) (s : State) :
    (raiseIllegal cause c s).err = true := by
  unfold raiseIllegal; split
  · assumption
  · rfl

@[simp] theorem raiseIllegal_cause (cause : Cause) (c : Word) (s : State) :
    (raiseIllegal cause c s).cause = if s.err then s.cause else cause.code := by
  unfold raiseIllegal; split <;> rfl

@[simp] theorem raiseIllegal_errCmd (cause : Cause) (c : Word) (s : State) :
    (raiseIllegal cause c s).errCmd = if s.err then s.errCmd else c := by
  unfold raiseIllegal; split <;> rfl

/-! ### Reads through the accessors -/

theorem readReg_writeReg (s : State) (i j : Reg) (x : Word) :
    (s.writeReg i x).readReg j = if j = i then x else s.readReg j := slot_setSlot s.regs i j x

@[simp] theorem readReg_writeReg_same (s : State) (i : Reg) (x : Word) :
    (s.writeReg i x).readReg i = x := slot_setSlot_same s.regs i x

@[simp] theorem readReg_setSvf (s : State) (i : UnitIx) (x : SvfUnit) (j : Reg) :
    (s.setSvf i x).readReg j = s.readReg j := rfl

@[simp] theorem readReg_setPink (s : State) (i : UnitIx) (x : PinkUnit) (j : Reg) :
    (s.setPink i x).readReg j = s.readReg j := rfl

@[simp] theorem readReg_setOsc (s : State) (i : UnitIx) (x : OscUnit) (j : Reg) :
    (s.setOsc i x).readReg j = s.readReg j := rfl

@[simp] theorem readReg_setDly (s : State) (i : UnitIx) (x : DelayUnit) (j : Reg) :
    (s.setDly i x).readReg j = s.readReg j := rfl

@[simp] theorem readReg_takeTxn (s : State) (rest : List HostTxn) (j : Reg) :
    (takeTxn rest s).readReg j = s.readReg j := rfl

@[simp] theorem readReg_clearError (s : State) (j : Reg) :
    (clearError s).readReg j = s.readReg j := rfl

@[simp] theorem readReg_raiseIllegal (cause : Cause) (c : Word) (s : State) (j : Reg) :
    (raiseIllegal cause c s).readReg j = s.readReg j := by
  unfold raiseIllegal; split <;> rfl

theorem svfAt_setSvf (s : State) (i j : UnitIx) (x : SvfUnit) :
    (s.setSvf i x).svfAt j = if j = i then x else s.svfAt j := slot_setSlot s.svf i j x

@[simp] theorem svfAt_setSvf_same (s : State) (i : UnitIx) (x : SvfUnit) :
    (s.setSvf i x).svfAt i = x := slot_setSlot_same s.svf i x

@[simp] theorem svfAt_writeReg (s : State) (i : Reg) (x : Word) (j : UnitIx) :
    (s.writeReg i x).svfAt j = s.svfAt j := rfl

@[simp] theorem svfAt_setPink (s : State) (i : UnitIx) (x : PinkUnit) (j : UnitIx) :
    (s.setPink i x).svfAt j = s.svfAt j := rfl

@[simp] theorem svfAt_setOsc (s : State) (i : UnitIx) (x : OscUnit) (j : UnitIx) :
    (s.setOsc i x).svfAt j = s.svfAt j := rfl

@[simp] theorem svfAt_setDly (s : State) (i : UnitIx) (x : DelayUnit) (j : UnitIx) :
    (s.setDly i x).svfAt j = s.svfAt j := rfl

@[simp] theorem svfAt_takeTxn (s : State) (rest : List HostTxn) (j : UnitIx) :
    (takeTxn rest s).svfAt j = s.svfAt j := rfl

@[simp] theorem svfAt_clearError (s : State) (j : UnitIx) :
    (clearError s).svfAt j = s.svfAt j := rfl

@[simp] theorem svfAt_raiseIllegal (cause : Cause) (c : Word) (s : State) (j : UnitIx) :
    (raiseIllegal cause c s).svfAt j = s.svfAt j := by
  unfold raiseIllegal; split <;> rfl

theorem pinkAt_setPink (s : State) (i j : UnitIx) (x : PinkUnit) :
    (s.setPink i x).pinkAt j = if j = i then x else s.pinkAt j := slot_setSlot s.pink i j x

@[simp] theorem pinkAt_setPink_same (s : State) (i : UnitIx) (x : PinkUnit) :
    (s.setPink i x).pinkAt i = x := slot_setSlot_same s.pink i x

@[simp] theorem pinkAt_writeReg (s : State) (i : Reg) (x : Word) (j : UnitIx) :
    (s.writeReg i x).pinkAt j = s.pinkAt j := rfl

@[simp] theorem pinkAt_setSvf (s : State) (i : UnitIx) (x : SvfUnit) (j : UnitIx) :
    (s.setSvf i x).pinkAt j = s.pinkAt j := rfl

@[simp] theorem pinkAt_setOsc (s : State) (i : UnitIx) (x : OscUnit) (j : UnitIx) :
    (s.setOsc i x).pinkAt j = s.pinkAt j := rfl

@[simp] theorem pinkAt_setDly (s : State) (i : UnitIx) (x : DelayUnit) (j : UnitIx) :
    (s.setDly i x).pinkAt j = s.pinkAt j := rfl

@[simp] theorem pinkAt_takeTxn (s : State) (rest : List HostTxn) (j : UnitIx) :
    (takeTxn rest s).pinkAt j = s.pinkAt j := rfl

@[simp] theorem pinkAt_clearError (s : State) (j : UnitIx) :
    (clearError s).pinkAt j = s.pinkAt j := rfl

@[simp] theorem pinkAt_raiseIllegal (cause : Cause) (c : Word) (s : State) (j : UnitIx) :
    (raiseIllegal cause c s).pinkAt j = s.pinkAt j := by
  unfold raiseIllegal; split <;> rfl

theorem oscAt_setOsc (s : State) (i j : UnitIx) (x : OscUnit) :
    (s.setOsc i x).oscAt j = if j = i then x else s.oscAt j := slot_setSlot s.osc i j x

@[simp] theorem oscAt_setOsc_same (s : State) (i : UnitIx) (x : OscUnit) :
    (s.setOsc i x).oscAt i = x := slot_setSlot_same s.osc i x

@[simp] theorem oscAt_writeReg (s : State) (i : Reg) (x : Word) (j : UnitIx) :
    (s.writeReg i x).oscAt j = s.oscAt j := rfl

@[simp] theorem oscAt_setSvf (s : State) (i : UnitIx) (x : SvfUnit) (j : UnitIx) :
    (s.setSvf i x).oscAt j = s.oscAt j := rfl

@[simp] theorem oscAt_setPink (s : State) (i : UnitIx) (x : PinkUnit) (j : UnitIx) :
    (s.setPink i x).oscAt j = s.oscAt j := rfl

@[simp] theorem oscAt_setDly (s : State) (i : UnitIx) (x : DelayUnit) (j : UnitIx) :
    (s.setDly i x).oscAt j = s.oscAt j := rfl

@[simp] theorem oscAt_takeTxn (s : State) (rest : List HostTxn) (j : UnitIx) :
    (takeTxn rest s).oscAt j = s.oscAt j := rfl

@[simp] theorem oscAt_clearError (s : State) (j : UnitIx) :
    (clearError s).oscAt j = s.oscAt j := rfl

@[simp] theorem oscAt_raiseIllegal (cause : Cause) (c : Word) (s : State) (j : UnitIx) :
    (raiseIllegal cause c s).oscAt j = s.oscAt j := by
  unfold raiseIllegal; split <;> rfl

theorem dlyAt_setDly (s : State) (i j : UnitIx) (x : DelayUnit) :
    (s.setDly i x).dlyAt j = if j = i then x else s.dlyAt j := slot_setSlot s.dly i j x

@[simp] theorem dlyAt_setDly_same (s : State) (i : UnitIx) (x : DelayUnit) :
    (s.setDly i x).dlyAt i = x := slot_setSlot_same s.dly i x

@[simp] theorem dlyAt_writeReg (s : State) (i : Reg) (x : Word) (j : UnitIx) :
    (s.writeReg i x).dlyAt j = s.dlyAt j := rfl

@[simp] theorem dlyAt_setSvf (s : State) (i : UnitIx) (x : SvfUnit) (j : UnitIx) :
    (s.setSvf i x).dlyAt j = s.dlyAt j := rfl

@[simp] theorem dlyAt_setPink (s : State) (i : UnitIx) (x : PinkUnit) (j : UnitIx) :
    (s.setPink i x).dlyAt j = s.dlyAt j := rfl

@[simp] theorem dlyAt_setOsc (s : State) (i : UnitIx) (x : OscUnit) (j : UnitIx) :
    (s.setOsc i x).dlyAt j = s.dlyAt j := rfl

@[simp] theorem dlyAt_takeTxn (s : State) (rest : List HostTxn) (j : UnitIx) :
    (takeTxn rest s).dlyAt j = s.dlyAt j := rfl

@[simp] theorem dlyAt_clearError (s : State) (j : UnitIx) :
    (clearError s).dlyAt j = s.dlyAt j := rfl

@[simp] theorem dlyAt_raiseIllegal (cause : Cause) (c : Word) (s : State) (j : UnitIx) :
    (raiseIllegal cause c s).dlyAt j = s.dlyAt j := by
  unfold raiseIllegal; split <;> rfl

end Sys2Proof.Machine
end

