-- ==== Sys2Proof/Laws/Memory.lean ====
section
/-! SUPPORT. Delay memory: every operation keeps the canonical form and the bounds, a read after a write
gives the value written, and a write leaves every other place alone. -/

namespace Sys2Proof.Machine

/-! ### Bytes -/

/-- Below every listed address a byte is unlisted. -/
theorem Memory.readByte_below (m : List Host.Cell) (a : Nat) (h : ∀ c ∈ m, a < c.1) :
    Memory.readByte m a = Memory.unlisted := by
  induction m with
  | nil => rfl
  | cons c rest ih =>
    obtain ⟨a', b⟩ := c
    have hne : a' ≠ a := by have := h (a', b) (by simp); simp at this; omega
    simp [Memory.readByte, hne]
    exact ih fun c hc => h c (by simp [hc])

theorem Memory.mem_cons_iff (a : Nat) (b : Byte) (rest : List Host.Cell) (c : Host.Cell) :
    c ∈ Memory.cons a b rest → c = (a, b) ∨ c ∈ rest := by
  unfold Memory.cons
  split <;> simp_all

/-- Where the cells of a memory after a write come from. -/
theorem Memory.mem_writeByte (m : List Host.Cell) (a : Nat) (b : Byte) (c : Host.Cell)
    (h : c ∈ Memory.writeByte m a b) : c = (a, b) ∨ c ∈ m := by
  induction m with
  | nil => simpa using Memory.mem_cons_iff a b [] c h
  | cons d rest ih =>
    obtain ⟨a', b'⟩ := d
    simp only [Memory.writeByte] at h
    split at h
    · simpa using Memory.mem_cons_iff _ _ _ _ h
    · split at h
      · rcases Memory.mem_cons_iff _ _ _ _ h with h | h <;> simp [h]
      · rcases List.mem_cons.1 h with h | h
        · simp [h]
        · rcases ih h with h | h <;> simp [h]

theorem Memory.cons_wf (a : Nat) (b : Byte) (rest : List Host.Cell) (hr : Memory.wf rest)
    (hlow : ∀ c ∈ rest, a < c.1) : Memory.wf (Memory.cons a b rest) := by
  unfold Memory.cons
  split
  · exact hr
  · next hb =>
    refine ⟨List.pairwise_cons.2 ⟨hlow, hr.1⟩, ?_⟩
    intro c hc
    rcases List.mem_cons.1 hc with rfl | hc
    · exact hb
    · exact hr.2 c hc

theorem Memory.wf_tail {c : Host.Cell} {rest : List Host.Cell} (h : Memory.wf (c :: rest)) :
    Memory.wf rest ∧ ∀ d ∈ rest, c.1 < d.1 :=
  ⟨⟨(List.pairwise_cons.1 h.1).2, fun d hd => h.2 d (by simp [hd])⟩, (List.pairwise_cons.1 h.1).1⟩

/-- Storing a byte keeps the canonical form. -/
theorem Memory.writeByte_wf (m : List Host.Cell) (a : Nat) (b : Byte) (h : Memory.wf m) :
    Memory.wf (Memory.writeByte m a b) := by
  induction m with
  | nil => exact Memory.cons_wf a b [] h (by simp)
  | cons d rest ih =>
    obtain ⟨a', b'⟩ := d
    obtain ⟨hrest, hlow⟩ := Memory.wf_tail h
    simp only [Memory.writeByte]
    split
    · next hlt =>
      refine Memory.cons_wf a b _ h ?_
      intro c hc
      rcases List.mem_cons.1 hc with rfl | hc
      · exact hlt
      · exact Nat.lt_trans hlt (hlow c hc)
    · next hge =>
      split
      · next heq => exact Memory.cons_wf a b rest hrest (by subst heq; exact hlow)
      · next hne =>
        refine ⟨List.pairwise_cons.2 ⟨?_, (ih hrest).1⟩, ?_⟩
        · intro c hc
          rcases Memory.mem_writeByte _ _ _ _ hc with rfl | hc
          · show a' < a; omega
          · exact hlow c hc
        · intro c hc
          rcases List.mem_cons.1 hc with rfl | hc
          · exact h.2 _ (by simp)
          · exact (ih hrest).2 c hc

/-- Storing a byte inside the ring keeps every listed byte inside the ring. -/
theorem Memory.writeByte_within (n : Nat) (m : List Host.Cell) (a : Nat) (b : Byte)
    (h : Memory.within n m) (ha : a < 4 * n) : Memory.within n (Memory.writeByte m a b) := by
  intro c hc
  rcases Memory.mem_writeByte _ _ _ _ hc with rfl | hc
  · exact ha
  · exact h c hc

theorem Memory.readByte_cons_same (a : Nat) (b : Byte) (rest : List Host.Cell)
    (hlow : ∀ c ∈ rest, a < c.1) : Memory.readByte (Memory.cons a b rest) a = b := by
  unfold Memory.cons
  split
  · next hb => rw [hb]; exact Memory.readByte_below rest a hlow
  · simp [Memory.readByte]

theorem Memory.readByte_cons_ne (a : Nat) (b : Byte) (rest : List Host.Cell) (x : Nat) (h : x ≠ a) :
    Memory.readByte (Memory.cons a b rest) x = Memory.readByte rest x := by
  unfold Memory.cons
  split
  · rfl
  · have : a ≠ x := fun e => h e.symm
    simp [Memory.readByte, this]

/-- A byte read where it was just stored is the byte stored. -/
theorem Memory.readByte_writeByte_same (m : List Host.Cell) (a : Nat) (b : Byte) (h : Memory.wf m) :
    Memory.readByte (Memory.writeByte m a b) a = b := by
  induction m with
  | nil => exact Memory.readByte_cons_same a b [] (by simp)
  | cons d rest ih =>
    obtain ⟨a', b'⟩ := d
    obtain ⟨hrest, hlow⟩ := Memory.wf_tail h
    simp only [Memory.writeByte]
    split
    · next hlt =>
      refine Memory.readByte_cons_same a b _ ?_
      intro c hc
      rcases List.mem_cons.1 hc with rfl | hc
      · exact hlt
      · exact Nat.lt_trans hlt (hlow c hc)
    · split
      · next heq => exact Memory.readByte_cons_same a b rest (by subst heq; exact hlow)
      · next hne =>
        have : a' ≠ a := fun e => hne e.symm
        simp [Memory.readByte, this, ih hrest]

/-- Storing a byte leaves every other byte alone, in canonical form or not. -/
theorem Memory.readByte_writeByte_ne (m : List Host.Cell) (a : Nat) (b : Byte) (x : Nat) (h : x ≠ a) :
    Memory.readByte (Memory.writeByte m a b) x = Memory.readByte m x := by
  induction m with
  | nil => exact Memory.readByte_cons_ne a b [] x h
  | cons d rest ih =>
    obtain ⟨a', b'⟩ := d
    simp only [Memory.writeByte]
    split
    · exact Memory.readByte_cons_ne a b _ x h
    · split
      · next heq =>
        have : a' ≠ x := fun e => h (by omega)
        rw [Memory.readByte_cons_ne a b rest x h]
        simp [Memory.readByte, this]
      · simp [Memory.readByte, ih]

/-! ### Words -/

theorem Memory.writeWord_wf (m : List Host.Cell) (i : Nat) (v : Word) (h : Memory.wf m) :
    Memory.wf (Memory.writeWord m i v) :=
  Memory.writeByte_wf _ _ _ (Memory.writeByte_wf _ _ _ (Memory.writeByte_wf _ _ _
    (Memory.writeByte_wf _ _ _ h)))

theorem Memory.writeWord_within (n : Nat) (m : List Host.Cell) (i : Nat) (v : Word)
    (h : Memory.within n m) (hi : i < n) : Memory.within n (Memory.writeWord m i v) :=
  Memory.writeByte_within n _ _ _ (Memory.writeByte_within n _ _ _ (Memory.writeByte_within n _ _ _
    (Memory.writeByte_within n _ _ _ h (by omega)) (by omega)) (by omega)) (by omega)

/-- The four lanes of a word make the word. -/
theorem lanes_append (v : Word) : lane v 3 ++ lane v 2 ++ lane v 1 ++ lane v 0 = v := by
  apply BitVec.eq_of_getLsbD_eq
  intro i hi
  show @BitVec.getLsbD (8 + 8 + 8 + 8) (lane v 3 ++ lane v 2 ++ lane v 1 ++ lane v 0) i = _
  simp only [BitVec.getLsbD_append, lane, BitVec.getLsbD_extractLsb']
  split
  · simp [*]
  · split
    · next h1 h2 => rw [show 8 * 1 + (i - 8) = i by omega]; simp [h2]
    · split
      · next h1 h2 h3 => rw [show 8 * 2 + (i - 8 - 8) = i by omega]; simp [h3]
      · next h1 h2 h3 =>
        rw [show 8 * 3 + (i - 8 - 8 - 8) = i by omega]
        have : i - 8 - 8 - 8 < 8 := by omega
        simp [this]

/-- A word's bytes after it was stored are its lanes. -/
theorem Memory.readByte_writeWord_lane (m : List Host.Cell) (i : Nat) (v : Word) (k : Nat)
    (hk : k < 4) (h : Memory.wf m) :
    Memory.readByte (Memory.writeWord m i v) (4 * i + k) = lane v k := by
  have w0 := Memory.writeByte_wf m (4 * i) (lane v 0) h
  have w1 := Memory.writeByte_wf _ (4 * i + 1) (lane v 1) w0
  have w2 := Memory.writeByte_wf _ (4 * i + 2) (lane v 2) w1
  unfold Memory.writeWord
  interval_cases k
  · rw [Memory.readByte_writeByte_ne _ _ _ _ (by omega), Memory.readByte_writeByte_ne _ _ _ _ (by omega),
      Memory.readByte_writeByte_ne _ _ _ _ (by omega)]
    exact Memory.readByte_writeByte_same _ _ _ h
  · rw [Memory.readByte_writeByte_ne _ _ _ _ (by omega), Memory.readByte_writeByte_ne _ _ _ _ (by omega)]
    exact Memory.readByte_writeByte_same _ _ _ w0
  · rw [Memory.readByte_writeByte_ne _ _ _ _ (by omega)]
    exact Memory.readByte_writeByte_same _ _ _ w1
  · exact Memory.readByte_writeByte_same _ _ _ w2

/-- A byte outside a stored word is unchanged. -/
theorem Memory.readByte_writeWord_ne (m : List Host.Cell) (i : Nat) (v : Word) (a : Nat)
    (h : a / 4 ≠ i) : Memory.readByte (Memory.writeWord m i v) a = Memory.readByte m a := by
  unfold Memory.writeWord
  rw [Memory.readByte_writeByte_ne _ _ _ _ (by omega), Memory.readByte_writeByte_ne _ _ _ _ (by omega),
    Memory.readByte_writeByte_ne _ _ _ _ (by omega), Memory.readByte_writeByte_ne _ _ _ _ (by omega)]

/-- A word read where it was just stored is the word stored, pattern exact (20_memory.md R61). -/
theorem Memory.readWord_writeWord_same (m : List Host.Cell) (i : Nat) (v : Word) (h : Memory.wf m) :
    Memory.readWord (Memory.writeWord m i v) i = v := by
  unfold Memory.readWord
  rw [Memory.readByte_writeWord_lane m i v 3 (by omega) h,
    Memory.readByte_writeWord_lane m i v 2 (by omega) h,
    Memory.readByte_writeWord_lane m i v 1 (by omega) h]
  have := Memory.readByte_writeWord_lane m i v 0 (by omega) h
  rw [Nat.add_zero] at this
  rw [this]
  exact lanes_append v

/-- Storing a word leaves every other word alone. -/
theorem Memory.readWord_writeWord_ne (m : List Host.Cell) (i j : Nat) (v : Word) (h : j ≠ i) :
    Memory.readWord (Memory.writeWord m i v) j = Memory.readWord m j := by
  unfold Memory.readWord
  rw [Memory.readByte_writeWord_ne _ _ _ _ (by omega), Memory.readByte_writeWord_ne _ _ _ _ (by omega),
    Memory.readByte_writeWord_ne _ _ _ _ (by omega), Memory.readByte_writeWord_ne _ _ _ _ (by omega)]

@[simp] theorem Memory.readByte_nil (a : Nat) : Memory.readByte [] a = Memory.unlisted := rfl

/-- Every word of a cleared ring is `+0.0` (20_memory.md R76). -/
@[simp] theorem Memory.readWord_nil (i : Nat) : Memory.readWord [] i = 0x00000000#32 := by
  show (0#8 ++ 0#8 ++ 0#8 ++ 0#8 : Word) = 0x00000000#32
  decide

/-! ### The ring of a delay unit -/

theorem capacity_pos (c : Config) : 0 < c.capacity := by
  unfold Config.capacity; exact Nat.two_pow_pos _

theorem ringIndex_lt (c : Config) (i : Int) : ringIndex c i < c.capacity := by
  have h : (0 : Int) < c.capacity := by exact_mod_cast capacity_pos c
  have h1 := Int.emod_nonneg i (Int.ne_of_gt h)
  have h2 := Int.emod_lt_of_pos i h
  unfold ringIndex
  omega

/-- An index already in the ring names itself. -/
theorem ringIndex_ofNat (c : Config) (i : Nat) (h : i < c.capacity) : ringIndex c i = i := by
  unfold ringIndex
  rw [Int.emod_eq_of_lt (by omega) (by exact_mod_cast h)]
  simp

@[simp] theorem memWrite_w (c : Config) (d : DelayUnit) (i : Int) (v : Word) :
    (memWrite c d i v).w = d.w := rfl
@[simp] theorem memWrite_base (c : Config) (d : DelayUnit) (i : Int) (v : Word) :
    (memWrite c d i v).base = d.base := rfl
@[simp] theorem memWrite_depth (c : Config) (d : DelayUnit) (i : Int) (v : Word) :
    (memWrite c d i v).depth = d.depth := rfl
@[simp] theorem memWrite_lfoFreq (c : Config) (d : DelayUnit) (i : Int) (v : Word) :
    (memWrite c d i v).lfoFreq = d.lfoFreq := rfl
@[simp] theorem memWrite_lfoPhase (c : Config) (d : DelayUnit) (i : Int) (v : Word) :
    (memWrite c d i v).lfoPhase = d.lfoPhase := rfl
@[simp] theorem memWrite_buf (c : Config) (d : DelayUnit) (i : Int) (v : Word) :
    (memWrite c d i v).buf = Memory.writeWord d.buf (ringIndex c i) v := rfl

/-- `MemWrite` keeps the canonical form. -/
theorem memWrite_wf (c : Config) (d : DelayUnit) (i : Int) (v : Word) (h : Memory.wf d.buf) :
    Memory.wf (memWrite c d i v).buf := Memory.writeWord_wf _ _ _ h

/-- `MemWrite` stays inside the ring. -/
theorem memWrite_within (c : Config) (d : DelayUnit) (i : Int) (v : Word)
    (h : Memory.within c.capacity d.buf) : Memory.within c.capacity (memWrite c d i v).buf :=
  Memory.writeWord_within _ _ _ _ h (ringIndex_lt c i)

/-- A cleared ring is in canonical form. -/
theorem memClear_wf (d : DelayUnit) : Memory.wf (memClear d).buf := by
  show Memory.wf []
  decide

/-- A read of the position just written gives the word written (20_memory.md R68, R75). -/
theorem memRead_memWrite (c : Config) (d : DelayUnit) (i : Int) (v : Word) (h : Memory.wf d.buf) :
    memRead c (memWrite c d i v) i = v := Memory.readWord_writeWord_same _ _ _ h

/-- The memory after reset is in canonical form. -/
theorem reset_memory_wf (k : UnitIx) : Memory.wf (State.reset.dlyAt k).buf := by
  have h : State.reset.dlyAt k = DelayUnit.reset := slot_replicate DelayUnit.reset k
  rw [h]
  decide

end Sys2Proof.Machine
end

