-- ==== Sys2Proof/Laws/Ops.lean ====
section
/-! SUPPORT. What each shared operation can do, said once: the unit check, the host port, the decoder's
outcomes, the phase loop, the generator draws, the edge detector. -/

namespace Sys2Proof.Machine

/-! ### The unit check -/

/-- The check of R86 in the meanings and the one of WellFormed agree. -/
theorem unitInRange_eq_wellFormed (c : Config) (i : Instr) : unitInRange c i = i.wellFormed c := by
  cases i <;> rfl

theorem withUnit_inRange {i : Instr} {s : State} {effect : Result} (h : unitInRange s.cfg i = true) :
    withUnit i s effect = effect := by
  simp [withUnit, h]

theorem withUnit_outOfRange {i : Instr} {s : State} {effect : Result}
    (h : unitInRange s.cfg i = false) :
    withUnit i s effect = .next (raiseIllegal .unitRange (encode i) s) := by
  simp [withUnit, h]

/-- A command that names a unit has its effect, or is rejected with UNIT_RANGE. -/
theorem withUnit_next {i : Instr} {s t : State} {effect : Result}
    (h : withUnit i s effect = .next t) :
    (unitInRange s.cfg i = true ∧ effect = .next t) ∨
      (unitInRange s.cfg i = false ∧ t = raiseIllegal .unitRange (encode i) s) := by
  unfold withUnit at h
  split at h
  · next hr => exact .inl ⟨hr, h⟩
  · next hr =>
    refine .inr ⟨by simpa using hr, ?_⟩
    injection h with h
    exact h.symm

/-! ### The host port -/

theorem serve_idle {s : State} (h : s.port = []) : serve s = .next s := by
  simp [serve, h]

theorem serve_pending {s : State} {t : HostTxn} {rest : List HostTxn} (h : s.port = t :: rest) :
    serve s = transact t (takeTxn rest s) := by
  simp [serve, h]

theorem hostWrite_cmd (d : Word) (s : State) : hostWrite cmdAddr d s = command d s := rfl

theorem hostWrite_status (d : Word) (s : State) :
    hostWrite statusAddr d s = .next (if d.getLsbD 0 then clearError s else s) := rfl

theorem hostWrite_reset (d : Word) (s : State) :
    hostWrite resetAddr d s = .next (if d.getLsbD 0 then resetBlock s else s) := rfl

theorem hostWrite_reg {a : BitVec 8} (h : a < idAddr) (d : Word) (s : State) :
    hostWrite a d s = .next (s.writeReg (regOfAddr a) d) := by
  simp [hostWrite, h]

/-- Everything a host write can do. -/
theorem hostWrite_cases (a : BitVec 8) (d : Word) (s : State) :
    (a < idAddr ∧ hostWrite a d s = .next (s.writeReg (regOfAddr a) d)) ∨
    (a = statusAddr ∧ d.getLsbD 0 = true ∧ hostWrite a d s = .next (clearError s)) ∨
    (a = cmdAddr ∧ hostWrite a d s = command d s) ∨
    (a = resetAddr ∧ d.getLsbD 0 = true ∧ hostWrite a d s = .next (resetBlock s)) ∨
    hostWrite a d s = .next s := by
  unfold hostWrite
  split
  · next h => exact .inl ⟨h, rfl⟩
  · split
    · next h => cases hd : d.getLsbD 0 <;> simp [h]
    · split
      · next h => exact .inr (.inr (.inl ⟨h, rfl⟩))
      · split
        · next h => cases hd : d.getLsbD 0 <;> simp [h]
        · simp

theorem command_ok {c : Word} {i : Instr} (h : decode c = .ok i) (s : State) :
    command c s = exec i s := by
  simp [command, h]

theorem command_illegal {c : Word} {cause : Cause} (h : decode c = .illegal cause) (s : State) :
    command c s = .next (raiseIllegal cause c s) := by
  simp [command, h]

/-! ### The phase loop -/

/-- A phase below 1, or a NaN, is left alone. -/
theorem wrapDown_stop (c : Config) (n : Nat) (ph : Word) (h : F32.ge ph F32.one = false) :
    wrapDown c n ph = some ph := by
  cases n <;> simp [wrapDown, h]

/-- One turn of the loop. -/
theorem wrapDown_turn (c : Config) (n : Nat) (ph : Word) (h : F32.ge ph F32.one = true) :
    wrapDown c (n + 1) ph = wrapDown c n (fsub c ph F32.one) := by
  simp [wrapDown, h]

/-- Where the loop ends, the phase is not at least 1. -/
theorem wrapDown_some (c : Config) (n : Nat) (ph r : Word) (h : wrapDown c n ph = some r) :
    F32.ge r F32.one = false := by
  induction n generalizing ph with
  | zero =>
    unfold wrapDown at h
    split at h
    · cases h
    · next hg => cases h; simpa using hg
  | succ n ih =>
    unfold wrapDown at h
    split at h
    · exact ih _ h
    · next hg => cases h; simpa using hg

/-! ### Units -/

@[simp] theorem drawTap_count (c : Config) (p : PinkUnit) (i : Fin 5) :
    (drawTap c p i).count = p.count := rfl
@[simp] theorem drawTap_rng (c : Config) (p : PinkUnit) (i : Fin 5) :
    (drawTap c p i).rng = xorshift32 p.rng := rfl
@[simp] theorem drawTap_taps (c : Config) (p : PinkUnit) (i : Fin 5) :
    (drawTap c p i).taps = p.taps.set i.val (tapValue c (xorshift32 p.rng)) i.isLt := rfl

/-- Seeding clears the count. -/
@[simp] theorem seedPink_count (c : Config) (p : PinkUnit) (seed : Word) :
    (seedPink c p seed).count = 0#5 := rfl

/-- Seeding advances the generator five times from the seed. -/
@[simp] theorem seedPink_rng (c : Config) (p : PinkUnit) (seed : Word) :
    (seedPink c p seed).rng =
      xorshift32 (xorshift32 (xorshift32 (xorshift32 (xorshift32
        (if seed = 0#32 then defaultSeed else seed))))) := rfl

/-- The edge detector leaves frequency and modes alone. -/
theorem oscTrigger_frame (c : Config) (p : OscUnit) (v : Word) :
    (oscTrigger c p v).freq = p.freq ∧ (oscTrigger c p v).offset = p.offset ∧
      (oscTrigger c p v).invert = p.invert := by
  unfold oscTrigger
  split <;> split <;> simp

/-- The edge detector's three cases. -/
theorem oscTrigger_cases (c : Config) (p : OscUnit) (v : Word) :
    (p.trig = .low ∧ F32.ge v c.resetHi = true ∧
      oscTrigger c p v = { p with trig := .high, phase := F32.zero }) ∨
    (p.trig = .high ∧ F32.le v c.resetLo = true ∧ oscTrigger c p v = { p with trig := .low }) ∨
    oscTrigger c p v = p := by
  unfold oscTrigger
  split
  · next h => cases hv : F32.ge v c.resetHi <;> simp [h]
  · next h => cases hv : F32.le v c.resetLo <;> simp [h]

@[simp] theorem svfAdvance_mode (c : Config) (p : SvfUnit) (t : SvfTaps) :
    (svfAdvance c p t).mode = p.mode := rfl

/-- The taps do not depend on the mode (R100). -/
theorem svfTaps_mode (c : Config) (p : SvfUnit) (m : FilterMode) (x : Word) :
    svfTaps c { p with mode := m } x = svfTaps c p x := rfl

@[simp] theorem delayAdvance_buf (c : Config) (d : DelayUnit) (fs : Word) :
    (delayAdvance c d fs).buf = d.buf := rfl
@[simp] theorem delayAdvance_w (c : Config) (d : DelayUnit) (fs : Word) :
    (delayAdvance c d fs).w = (d.w + 1) % c.capacity := rfl

/-! ### The state after reset -/

@[simp] theorem resetOf_readReg (c : Config) (i : Reg) : (State.resetOf c).readReg i = 0x00000000#32 :=
  slot_replicate _ i
@[simp] theorem resetOf_svfAt (c : Config) (k : UnitIx) : (State.resetOf c).svfAt k = SvfUnit.reset :=
  slot_replicate _ k
@[simp] theorem resetOf_oscAt (c : Config) (j : UnitIx) : (State.resetOf c).oscAt j = OscUnit.reset :=
  slot_replicate _ j
@[simp] theorem resetOf_dlyAt (c : Config) (k : UnitIx) : (State.resetOf c).dlyAt k = DelayUnit.reset :=
  slot_replicate _ k

/-- Slot `k` of the pink units is seeded with `0x9E3779B9 ^ k` (10_state.md R36). -/
theorem resetOf_pinkAt (c : Config) (k : UnitIx) :
    (State.resetOf c).pinkAt k = PinkUnit.reset c k.toNat := by
  have h : ∀ n, (hn : n < 16) → (State.resetOf c).pink[n]'hn = PinkUnit.reset c n := by
    intro n hn
    interval_cases n <;> rfl
  exact h k.toNat k.isLt

end Sys2Proof.Machine
end

