-- ==== Sys2Proof/Laws/PerInstr.lean ====
section
/-! SUPPORT. A fact about every command, constructor by constructor: its encoded word carries its row of
the opcode map (spec/30_encoding.md R82), the opcode and every reserved bit. -/

namespace Sys2Proof.Laws.RowMatches

/-- The row of the opcode map a command belongs to. -/
def row : Instr → OpRow
  | .nop => ⟨0x00#6, 0x00000000#32, 0xFFFFFFFF#32⟩
  | .luih _ _ => ⟨0x01#6, 0x04000000#32, 0xFC3F0000#32⟩
  | .orlo _ _ => ⟨0x02#6, 0x08000000#32, 0xFC3F0000#32⟩
  | .mov _ _ => ⟨0x03#6, 0x0C000000#32, 0xFC03FFFF#32⟩
  | .svfcfg _ _ _ _ _ => ⟨0x08#6, 0x20000000#32, 0xFFC0003C#32⟩
  | .svfproc _ _ _ => ⟨0x09#6, 0x24000000#32, 0xFC03FC3F#32⟩
  | .pseed _ _ => ⟨0x10#6, 0x40000000#32, 0xFFC3FC3F#32⟩
  | .pnext _ _ => ⟨0x11#6, 0x44000000#32, 0xFC3FFC3F#32⟩
  | .white _ _ => ⟨0x12#6, 0x48000000#32, 0xFC3FFC3F#32⟩
  | .oscpitch _ _ => ⟨0x18#6, 0x60000000#32, 0xFFC3FC3F#32⟩
  | .oscstep _ _ => ⟨0x19#6, 0x64000000#32, 0xFFC3FC3F#32⟩
  | .oscrst _ _ => ⟨0x1A#6, 0x68000000#32, 0xFFC3FC3F#32⟩
  | .oscsaw _ _ => ⟨0x1B#6, 0x6C000000#32, 0xFC3FFC3F#32⟩
  | .oscmode _ _ => ⟨0x1C#6, 0x70000000#32, 0xFFFFFC3C#32⟩
  | .bankmix _ _ _ _ => ⟨0x1D#6, 0x74000000#32, 0xFC003C3F#32⟩
  | .dcfg _ _ => ⟨0x20#6, 0x80000000#32, 0xFFC3FC3F#32⟩
  | .dsetf _ _ => ⟨0x21#6, 0x84000000#32, 0xFFC3FC3F#32⟩
  | .dsetd _ _ => ⟨0x22#6, 0x88000000#32, 0xFFC3FC3F#32⟩
  | .dtick _ _ _ _ => ⟨0x23#6, 0x8C000000#32, 0xFC003C3F#32⟩
  | .rescale _ _ _ _ => ⟨0x28#6, 0xA0000000#32, 0xFC0003FF#32⟩
  | .resolve _ _ _ _ => ⟨0x29#6, 0xA4000000#32, 0xFC0003FF#32⟩
  | .xfade _ _ _ _ => ⟨0x2A#6, 0xA8000000#32, 0xFC0003FF#32⟩

/-- The encoded word has its row's opcode and its row's value under its row's mask. -/
def Statement (i : Instr) : Prop :=
  row i ∈ opcodeMap ∧ opField (encode i) = (row i).op ∧ encode i &&& (row i).mask = (row i).pattern

theorem nop : Statement (.nop) := by
  refine ⟨by simp [row, opcodeMap], by simp [encode, row], ?_⟩
  apply BitVec.eq_of_getLsbD_eq
  intro i hi
  rw [encode, row, BitVec.getLsbD_and, formatR_getLsbD]
  interval_cases i <;> simp

theorem luih (rd : Reg) (imm16 : BitVec 16) : Statement (.luih rd imm16) := by
  refine ⟨by simp [row, opcodeMap], by simp [encode, row], ?_⟩
  apply BitVec.eq_of_getLsbD_eq
  intro i hi
  rw [encode, row, BitVec.getLsbD_and, formatI_getLsbD]
  interval_cases i <;> simp

theorem orlo (rd : Reg) (imm16 : BitVec 16) : Statement (.orlo rd imm16) := by
  refine ⟨by simp [row, opcodeMap], by simp [encode, row], ?_⟩
  apply BitVec.eq_of_getLsbD_eq
  intro i hi
  rw [encode, row, BitVec.getLsbD_and, formatI_getLsbD]
  interval_cases i <;> simp

theorem mov (rd : Reg) (rs1 : Reg) : Statement (.mov rd rs1) := by
  refine ⟨by simp [row, opcodeMap], by simp [encode, row], ?_⟩
  apply BitVec.eq_of_getLsbD_eq
  intro i hi
  rw [encode, row, BitVec.getLsbD_and, formatR_getLsbD]
  interval_cases i <;> simp

theorem svfcfg (u : UnitIx) (mode : FilterMode) (rs1 : Reg) (rs2 : Reg) (rs3 : Reg) : Statement (.svfcfg u mode rs1 rs2 rs3) := by
  refine ⟨by simp [row, opcodeMap], by simp [encode, row], ?_⟩
  apply BitVec.eq_of_getLsbD_eq
  intro i hi
  rw [encode, row, BitVec.getLsbD_and, formatR_getLsbD]
  cases mode <;>
  interval_cases i <;> simp [FilterMode.code]

theorem svfproc (rd : Reg) (u : UnitIx) (rs1 : Reg) : Statement (.svfproc rd u rs1) := by
  refine ⟨by simp [row, opcodeMap], by simp [encode, row], ?_⟩
  apply BitVec.eq_of_getLsbD_eq
  intro i hi
  rw [encode, row, BitVec.getLsbD_and, formatR_getLsbD]
  interval_cases i <;> simp

theorem pseed (u : UnitIx) (rs1 : Reg) : Statement (.pseed u rs1) := by
  refine ⟨by simp [row, opcodeMap], by simp [encode, row], ?_⟩
  apply BitVec.eq_of_getLsbD_eq
  intro i hi
  rw [encode, row, BitVec.getLsbD_and, formatR_getLsbD]
  interval_cases i <;> simp

theorem pnext (rd : Reg) (u : UnitIx) : Statement (.pnext rd u) := by
  refine ⟨by simp [row, opcodeMap], by simp [encode, row], ?_⟩
  apply BitVec.eq_of_getLsbD_eq
  intro i hi
  rw [encode, row, BitVec.getLsbD_and, formatR_getLsbD]
  interval_cases i <;> simp

theorem white (rd : Reg) (u : UnitIx) : Statement (.white rd u) := by
  refine ⟨by simp [row, opcodeMap], by simp [encode, row], ?_⟩
  apply BitVec.eq_of_getLsbD_eq
  intro i hi
  rw [encode, row, BitVec.getLsbD_and, formatR_getLsbD]
  interval_cases i <;> simp

theorem oscpitch (u : UnitIx) (rs1 : Reg) : Statement (.oscpitch u rs1) := by
  refine ⟨by simp [row, opcodeMap], by simp [encode, row], ?_⟩
  apply BitVec.eq_of_getLsbD_eq
  intro i hi
  rw [encode, row, BitVec.getLsbD_and, formatR_getLsbD]
  interval_cases i <;> simp

theorem oscstep (u : UnitIx) (rs1 : Reg) : Statement (.oscstep u rs1) := by
  refine ⟨by simp [row, opcodeMap], by simp [encode, row], ?_⟩
  apply BitVec.eq_of_getLsbD_eq
  intro i hi
  rw [encode, row, BitVec.getLsbD_and, formatR_getLsbD]
  interval_cases i <;> simp

theorem oscrst (u : UnitIx) (rs1 : Reg) : Statement (.oscrst u rs1) := by
  refine ⟨by simp [row, opcodeMap], by simp [encode, row], ?_⟩
  apply BitVec.eq_of_getLsbD_eq
  intro i hi
  rw [encode, row, BitVec.getLsbD_and, formatR_getLsbD]
  interval_cases i <;> simp

theorem oscsaw (rd : Reg) (u : UnitIx) : Statement (.oscsaw rd u) := by
  refine ⟨by simp [row, opcodeMap], by simp [encode, row], ?_⟩
  apply BitVec.eq_of_getLsbD_eq
  intro i hi
  rw [encode, row, BitVec.getLsbD_and, formatR_getLsbD]
  interval_cases i <;> simp

theorem oscmode (u : UnitIx) (mode : BitVec 2) : Statement (.oscmode u mode) := by
  refine ⟨by simp [row, opcodeMap], by simp [encode, row], ?_⟩
  apply BitVec.eq_of_getLsbD_eq
  intro i hi
  rw [encode, row, BitVec.getLsbD_and, formatR_getLsbD]
  interval_cases i <;> simp

theorem bankmix (rd : Reg) (b : UnitIx) (rs1 : Reg) (rs2 : Reg) : Statement (.bankmix rd b rs1 rs2) := by
  refine ⟨by simp [row, opcodeMap], by simp [encode, row], ?_⟩
  apply BitVec.eq_of_getLsbD_eq
  intro i hi
  rw [encode, row, BitVec.getLsbD_and, formatR_getLsbD]
  interval_cases i <;> simp

theorem dcfg (u : UnitIx) (rs1 : Reg) : Statement (.dcfg u rs1) := by
  refine ⟨by simp [row, opcodeMap], by simp [encode, row], ?_⟩
  apply BitVec.eq_of_getLsbD_eq
  intro i hi
  rw [encode, row, BitVec.getLsbD_and, formatR_getLsbD]
  interval_cases i <;> simp

theorem dsetf (u : UnitIx) (rs1 : Reg) : Statement (.dsetf u rs1) := by
  refine ⟨by simp [row, opcodeMap], by simp [encode, row], ?_⟩
  apply BitVec.eq_of_getLsbD_eq
  intro i hi
  rw [encode, row, BitVec.getLsbD_and, formatR_getLsbD]
  interval_cases i <;> simp

theorem dsetd (u : UnitIx) (rs1 : Reg) : Statement (.dsetd u rs1) := by
  refine ⟨by simp [row, opcodeMap], by simp [encode, row], ?_⟩
  apply BitVec.eq_of_getLsbD_eq
  intro i hi
  rw [encode, row, BitVec.getLsbD_and, formatR_getLsbD]
  interval_cases i <;> simp

theorem dtick (rd : Reg) (u : UnitIx) (rs1 : Reg) (rs2 : Reg) : Statement (.dtick rd u rs1 rs2) := by
  refine ⟨by simp [row, opcodeMap], by simp [encode, row], ?_⟩
  apply BitVec.eq_of_getLsbD_eq
  intro i hi
  rw [encode, row, BitVec.getLsbD_and, formatR_getLsbD]
  interval_cases i <;> simp

theorem rescale (rd : Reg) (rs1 : Reg) (rs2 : Reg) (rs3 : Reg) : Statement (.rescale rd rs1 rs2 rs3) := by
  refine ⟨by simp [row, opcodeMap], by simp [encode, row], ?_⟩
  apply BitVec.eq_of_getLsbD_eq
  intro i hi
  rw [encode, row, BitVec.getLsbD_and, formatR_getLsbD]
  interval_cases i <;> simp

theorem resolve (rd : Reg) (rs1 : Reg) (rs2 : Reg) (rs3 : Reg) : Statement (.resolve rd rs1 rs2 rs3) := by
  refine ⟨by simp [row, opcodeMap], by simp [encode, row], ?_⟩
  apply BitVec.eq_of_getLsbD_eq
  intro i hi
  rw [encode, row, BitVec.getLsbD_and, formatR_getLsbD]
  interval_cases i <;> simp

theorem xfade (rd : Reg) (rs1 : Reg) (rs2 : Reg) (rs3 : Reg) : Statement (.xfade rd rs1 rs2 rs3) := by
  refine ⟨by simp [row, opcodeMap], by simp [encode, row], ?_⟩
  apply BitVec.eq_of_getLsbD_eq
  intro i hi
  rw [encode, row, BitVec.getLsbD_and, formatR_getLsbD]
  interval_cases i <;> simp

end Sys2Proof.Laws.RowMatches
end

