-- ==== Sys2Proof/Laws/Transcend.lean ====
section
/-! SUPPORT. What a function parameter gives, and what R15 fixes around it (spec/00_scope.md R7, R15). -/

namespace Sys2Proof

@[simp] theorem FnUnit.value_reference (free : Nat → Word → Word) (ref : Word → Word) (v : Word) :
    FnUnit.reference.value free ref v = ref v := rfl

@[simp] theorem FnUnit.value_other (k : Nat) (free : Nat → Word → Word) (ref : Word → Word)
    (v : Word) : (FnUnit.other k).value free ref v = free k v := rfl

/-- A given function answers the value it lists. -/
theorem FnUnit.value_given_listed {points : List (Word × Word)} {v y : Word}
    (h : points.lookup v = some y) (free : Nat → Word → Word) (ref : Word → Word) :
    (FnUnit.given points).value free ref v = y := by
  simp [FnUnit.value, h]

/-- A given function answers the reference value where it lists none. -/
theorem FnUnit.value_given_unlisted {points : List (Word × Word)} {v : Word}
    (h : points.lookup v = none) (free : Nat → Word → Word) (ref : Word → Word) :
    (FnUnit.given points).value free ref v = ref v := by
  simp [FnUnit.value, h]

@[simp] theorem trigFixed_zero (y : Word) : trigFixed 0x00000000#32 y = 0x00000000#32 := rfl

/-- At a NaN or an infinity, `tan32` and `sin32` are a quiet NaN. -/
theorem trigFixed_of_not_finite {v : Word} (h : F32.isFinite v = false) (y : Word) :
    trigFixed v y = F32.quiet y := by
  simp [trigFixed, h]

/-- At a finite argument that is not `+0`, R15 fixes nothing. -/
theorem trigFixed_of_finite {v : Word} (h : F32.isFinite v = true) (hz : v ≠ F32.zero) (y : Word) :
    trigFixed v y = y := by
  simp [trigFixed, h, hz]

end Sys2Proof
end

