-- ==== Sys2Proof/Tests/Slice0.lean ====
section
/-! SUPPORT. The model's own tests: what WellFormed refuses, words written out from the spec's encoding,
one step per instruction on the vectors of spec/95_test_vectors.md, and for every statement with
hypotheses a state and operands that meet them. -/

-- The kernel evaluates these one at a time: each of its threads reserves a gigabyte.
set_option Elab.async false

namespace Sys2Proof.Tests

open Sys2Proof.Machine

/-- Registers set by the host on a state. -/
def withRegs (s : State) (l : List (Reg × Word)) : State :=
  l.foldl (fun s p => s.writeReg p.1 p.2) s

/-- A field of the state one step after the host is about to write a command word. -/
def after {α : Type} (s : State) (w : Nat) (f : State → α) : Option α :=
  match step (s.withFetchWord 32 w) with
  | .next t => some (f t)
  | .fault _ => none
  | .refused _ => none

/-! ### WellFormed: one ill-formed term for each limit of R86 -/

theorem test_wf_refuses_svf : Instr.wellFormed Config.reference (.svfproc 0 4 0) = false := by decide
theorem test_wf_refuses_svfcfg : Instr.wellFormed Config.reference (.svfcfg 4 .lowpass 0 0 0) = false := by decide
theorem test_wf_refuses_pink : Instr.wellFormed Config.reference (.pnext 0 1) = false := by decide
theorem test_wf_refuses_pseed : Instr.wellFormed Config.reference (.pseed 1 0) = false := by decide
theorem test_wf_refuses_white : Instr.wellFormed Config.reference (.white 0 1) = false := by decide
theorem test_wf_refuses_osc : Instr.wellFormed Config.reference (.oscstep 3 0) = false := by decide
theorem test_wf_refuses_oscpitch : Instr.wellFormed Config.reference (.oscpitch 3 0) = false := by decide
theorem test_wf_refuses_oscrst : Instr.wellFormed Config.reference (.oscrst 3 0) = false := by decide
theorem test_wf_refuses_oscsaw : Instr.wellFormed Config.reference (.oscsaw 0 3) = false := by decide
theorem test_wf_refuses_oscmode : Instr.wellFormed Config.reference (.oscmode 3 0) = false := by decide
theorem test_wf_refuses_bank : Instr.wellFormed Config.reference (.bankmix 0 1 0 0) = false := by decide
theorem test_wf_refuses_delay : Instr.wellFormed Config.reference (.dtick 0 1 0 0) = false := by decide
theorem test_wf_refuses_dcfg : Instr.wellFormed Config.reference (.dcfg 1 0) = false := by decide
theorem test_wf_refuses_dsetf : Instr.wellFormed Config.reference (.dsetf 1 0) = false := by decide
theorem test_wf_refuses_dsetd : Instr.wellFormed Config.reference (.dsetd 1 0) = false := by decide

theorem test_wf_accepts_last_units :
    Instr.wellFormed Config.reference (.svfproc 0 3 0) = true ∧
    Instr.wellFormed Config.reference (.oscsaw 0 2) = true ∧
    Instr.wellFormed Config.reference (.bankmix 0 0 0 0) = true := by decide

/-! ### Words of the spec, their commands, and the commands' words -/

/-- R190. -/
theorem test_decode_nop : decode 0x00000000#32 = .ok (.nop) ∧ encode (.nop) = 0x00000000#32 := by decide

/-- LUIH r1, 0x3F80 (R191). -/
theorem test_decode_luih : decode 0x04403F80#32 = .ok (.luih 1 0x3F80#16) ∧ encode (.luih 1 0x3F80#16) = 0x04403F80#32 := by decide

/-- ORLO r2, 0xCCCD (R192). -/
theorem test_decode_orlo : decode 0x0880CCCD#32 = .ok (.orlo 2 0xCCCD#16) ∧ encode (.orlo 2 0xCCCD#16) = 0x0880CCCD#32 := by decide

/-- MOV r7, r4 (R193). -/
theorem test_decode_mov : decode 0x0DD00000#32 = .ok (.mov 7 4) ∧ encode (.mov 7 4) = 0x0DD00000#32 := by decide

/-- SVFCFG u1, HP, r1, r2, r3 (R93). -/
theorem test_decode_svfcfg : decode 0x20048C41#32 = .ok (.svfcfg 1 .highpass 1 2 3) ∧ encode (.svfcfg 1 .highpass 1 2 3) = 0x20048C41#32 := by decide

/-- SVFPROC r4, u0, r1 (R93). -/
theorem test_decode_svfproc : decode 0x25040000#32 = .ok (.svfproc 4 0 1) ∧ encode (.svfproc 4 0 1) = 0x25040000#32 := by decide

/-- PSEED u0, r1 (V-PINK-3). -/
theorem test_decode_pseed : decode 0x40040000#32 = .ok (.pseed 0 1) ∧ encode (.pseed 0 1) = 0x40040000#32 := by decide

/-- PNEXT r2, u0 (program P2). -/
theorem test_decode_pnext : decode 0x44800000#32 = .ok (.pnext 2 0) ∧ encode (.pnext 2 0) = 0x44800000#32 := by decide

/-- WHITE r3, u0 (V-PINK-6). -/
theorem test_decode_white : decode 0x48C00000#32 = .ok (.white 3 0) ∧ encode (.white 3 0) = 0x48C00000#32 := by decide

/-- OSCPITCH u1, r1 (program P3). -/
theorem test_decode_oscpitch : decode 0x60040040#32 = .ok (.oscpitch 1 1) ∧ encode (.oscpitch 1 1) = 0x60040040#32 := by decide

/-- OSCSTEP u2, r3 (program P3). -/
theorem test_decode_oscstep : decode 0x640C0080#32 = .ok (.oscstep 2 3) ∧ encode (.oscstep 2 3) = 0x640C0080#32 := by decide

/-- OSCRST u0, r8 (program P3). -/
theorem test_decode_oscrst : decode 0x68200000#32 = .ok (.oscrst 0 8) ∧ encode (.oscrst 0 8) = 0x68200000#32 := by decide

/-- OSCSAW r10, u0 (program P3). -/
theorem test_decode_oscsaw : decode 0x6E800000#32 = .ok (.oscsaw 10 0) ∧ encode (.oscsaw 10 0) = 0x6E800000#32 := by decide

/-- OSCMODE u2, OFFSET+INVERT (V-ENC-4). -/
theorem test_decode_oscmode : decode 0x70000083#32 = .ok (.oscmode 2 3) ∧ encode (.oscmode 2 3) = 0x70000083#32 := by decide

/-- BANKMIX r9, b0, r7, r8 (program P3). -/
theorem test_decode_bankmix : decode 0x765E0000#32 = .ok (.bankmix 9 0 7 8) ∧ encode (.bankmix 9 0 7 8) = 0x765E0000#32 := by decide

/-- DCFG u0, r1 (program P4). -/
theorem test_decode_dcfg : decode 0x80040000#32 = .ok (.dcfg 0 1) ∧ encode (.dcfg 0 1) = 0x80040000#32 := by decide

/-- DSETF u0, r1: op 0x21, rs1 1 (R82, R93). -/
theorem test_decode_dsetf : decode 0x84040000#32 = .ok (.dsetf 0 1) ∧ encode (.dsetf 0 1) = 0x84040000#32 := by decide

/-- DSETD u0, r3: op 0x22, rs1 3 (R82, R93). -/
theorem test_decode_dsetd : decode 0x880C0000#32 = .ok (.dsetd 0 3) ∧ encode (.dsetd 0 3) = 0x880C0000#32 := by decide

/-- DTICK r4, u0, r3, r2 (program P4). -/
theorem test_decode_dtick : decode 0x8D0C8000#32 = .ok (.dtick 4 0 3 2) ∧ encode (.dtick 4 0 3 2) = 0x8D0C8000#32 := by decide

/-- RESCALE r0, r1, r2, r4 (section on register pairs). -/
theorem test_decode_rescale : decode 0xA0049000#32 = .ok (.rescale 0 1 2 4) ∧ encode (.rescale 0 1 2 4) = 0xA0049000#32 := by decide

/-- RESOLVE r7, r4, r5, r6 (program P3). -/
theorem test_decode_resolve : decode 0xA5D15800#32 = .ok (.resolve 7 4 5 6) ∧ encode (.resolve 7 4 5 6) = 0xA5D15800#32 := by decide

/-- XFADE r5, r2, r3, r4 (program P2). -/
theorem test_decode_xfade : decode 0xA948D000#32 = .ok (.xfade 5 2 3 4) ∧ encode (.xfade 5 2 3 4) = 0xA948D000#32 := by decide

/-- V-ENC-6, 8, 15 and 20: the cause of a rejected word, and the priority of the causes (R204). -/
theorem test_decode_rejects :
    decode 0xFC000000#32 = .illegal .illegalOpcode ∧ decode 0x00000001#32 = .illegal .reservedField ∧
    decode 0x20000003#32 = .illegal .reservedMode ∧ decode 0x204003C3#32 = .illegal .reservedField := by
  decide

/-- R90's written form. -/
theorem test_assembly : assembly (.svfproc 4 0 1) = "SVFPROC r4, u0, r1" := by decide +kernel

/-- An OSCMODE word of the table through the host's door. -/
theorem test_decodeTableWord : decodeTableWord 32 0x70000083 = some (.oscmode 2 3) := by decide

/-! ### One step per instruction -/

theorem test_nop : after State.reset 0x00000000 (fun t => (t.readReg 1, t.err)) = some (0#32, false) := by
  decide +kernel

/-- V-MOV-1. -/
theorem test_luih : after (withRegs State.reset [(1, 0x12345678#32)]) 0x04403F80 (fun t => t.readReg 1) =
    some 0x3F800000#32 := by decide +kernel

/-- V-MOV-3. -/
theorem test_orlo : after (withRegs State.reset [(2, 0x0000FFFF#32)]) 0x08800001 (fun t => t.readReg 2) =
    some 0x0000FFFF#32 := by decide +kernel

/-- V-MOV-4. -/
theorem test_mov : after (withRegs State.reset [(4, 0x7FC00001#32)]) 0x0DD00000 (fun t => t.readReg 7) =
    some 0x7FC00001#32 := by decide +kernel

/-- V-SVF-1. -/
theorem test_svfcfg :
    after (withRegs State.reset [(1, 0x447A0000#32), (3, 0x473B8000#32)]) 0x20048C00
      (fun t => ((t.svfAt 0).g, (t.svfAt 0).damping)) = some (0x3D863BA7#32, 0x3F800000#32) := by
  decide +kernel

/-- V-SVF-8: an argument just above pi/2. -/
theorem test_svfcfg_nyquist :
    after (withRegs State.reset [(1, 0x46BB8000#32), (3, 0x473B8000#32)]) 0x20048C00
      (fun t => (t.svfAt 0).g) = some 0xCBAE8A4A#32 := by
  decide +kernel

/-- V-SVF-3. -/
theorem test_svfproc :
    after (withRegs (State.reset.setSvf 0 { SvfUnit.reset with g := 0x3D863BA7#32 }) [(1, 0x3F800000#32)])
      0x25040000 (fun t => (t.readReg 4, (t.svfAt 0).z1, (t.svfAt 0).z2)) =
      some (0x3B77F7EA#32, 0x3DEC7445#32, 0x3BF7F7EA#32) := by
  decide +kernel

/-- V-SVF-4, highpass, first sample: the output differs, the memories do not. -/
theorem test_svfproc_highpass :
    after (withRegs (State.reset.setSvf 0 { SvfUnit.reset with g := 0x3D863BA7#32, mode := .highpass })
      [(1, 0x3F800000#32)]) 0x25040000 (fun t => (t.readReg 4, (t.svfAt 0).z1)) =
      some (0x3F61797F#32, 0x3DEC7445#32) := by
  decide +kernel

/-- V-PINK-3. -/
theorem test_pseed :
    after (withRegs State.reset [(1, 0x00000001#32)]) 0x40040000 (fun t => t.pinkAt 0) =
      some { count := 0#5
             taps := #v[0x38840000#32, 0x3C8100C0#32, 0x3F1DCCA8#32, 0x3D92ACC8#32, 0x3F0EF917#32]
             rng := 0x8EF917D1#32 } := by
  decide +kernel

/-- The unit V-PINK-3 leaves. -/
def seededOne : PinkUnit where
  count := 0#5
  taps := #v[0x38840000#32, 0x3C8100C0#32, 0x3F1DCCA8#32, 0x3D92ACC8#32, 0x3F0EF917#32]
  rng := 0x8EF917D1#32

/-- V-PINK-4, first call. -/
theorem test_pnext :
    after (State.reset.setPink 0 seededOne) 0x44800000 (fun t => (t.readReg 2, (t.pinkAt 0).count)) =
      some (0x3FB7C95C#32, 1#5) := by
  decide +kernel

/-- R126: the step from count 31 to 0 redraws tap 4 alone. -/
theorem test_pnext_wraps :
    after (State.reset.setPink 0 { seededOne with count := 31#5 }) 0x44800000
      (fun t => ((t.pinkAt 0).count, (t.pinkAt 0).taps[3], decide ((t.pinkAt 0).taps[4] = 0x3F0EF917#32))) =
      some (0#5, 0x3D92ACC8#32, false) := by
  decide +kernel

/-- V-PINK-6. -/
theorem test_white :
    after (State.reset.setPink 0 seededOne) 0x48C00000
      (fun t => (t.readReg 3, (t.pinkAt 0).rng, (t.pinkAt 0).taps[0])) =
      some (0xBF27214A#32, 0x2C6F5BD0#32, 0x38840000#32) := by
  decide +kernel

/-- V-OSC-10: pitch 0.5 and pitch -126. -/
theorem test_oscpitch :
    after (withRegs State.reset [(1, 0x3F000000#32)]) 0x60040000 (fun t => (t.oscAt 0).freq) =
      some 0x3FB504F3#32 := by
  decide +kernel

theorem test_oscpitch_integer :
    after (withRegs State.reset [(1, 0xC2FC0000#32)]) 0x60040000 (fun t => (t.oscAt 0).freq) =
      some 0x00800000#32 := by
  decide +kernel

/-- V-OSC-1, the tenth step. -/
theorem test_oscstep :
    after (withRegs (State.reset.setOsc 0 { OscUnit.reset with phase := 0x3F666668#32 })
      [(1, 0x3DCCCCCD#32)]) 0x64040000 (fun t => (t.oscAt 0).phase) = some 0x34000000#32 := by
  decide +kernel

/-- V-OSC-4: a NaN time step counts as half a cycle. -/
theorem test_oscstep_nan :
    after (withRegs (State.reset.setOsc 0 { OscUnit.reset with phase := 0x3F000000#32 })
      [(1, 0x7FC00000#32)]) 0x64040000 (fun t => (t.oscAt 0).phase) = some 0x00000000#32 := by
  decide +kernel

/-- V-OSC-8, first signal. -/
theorem test_oscrst :
    after (withRegs (State.reset.setOsc 0 { OscUnit.reset with phase := 0x3F333333#32 })
      [(1, 0x3F800000#32)]) 0x68040000 (fun t => ((t.oscAt 0).phase, (t.oscAt 0).trig)) =
      some (0x00000000#32, .high) := by
  decide +kernel

/-- V-OSC-8, fourth signal: 0.0 re-arms the detector and leaves the phase. -/
theorem test_oscrst_rearms :
    after (State.reset.setOsc 0 { OscUnit.reset with phase := 0x3F333333#32, trig := .high }) 0x68040000
      (fun t => ((t.oscAt 0).phase, (t.oscAt 0).trig)) = some (0x3F333333#32, .low) := by
  decide +kernel

/-- V-OSC-11: phase 0.5 is the jump to -1. -/
theorem test_oscsaw :
    after (State.reset.setOsc 0 { OscUnit.reset with phase := 0x3F000000#32 }) 0x6C800000
      (fun t => t.readReg 2) = some 0xBF800000#32 := by
  decide +kernel

/-- R145's example: at phase 0.75 with both modes the value is -1.5. -/
theorem test_oscsaw_offset_invert :
    after (State.reset.setOsc 0 { OscUnit.reset with phase := 0x3F400000#32, offset := true, invert := true })
      0x6C800000 (fun t => t.readReg 2) = some 0xBFC00000#32 := by
  decide +kernel

/-- Bit 1 alone is invert (R85). -/
theorem test_oscmode :
    after State.reset 0x70000082 (fun t => ((t.oscAt 2).offset, (t.oscAt 2).invert)) =
      some (false, true) := by
  decide +kernel

/-- The three voices of V-OSC-12. -/
def voices : State :=
  ((State.reset.setOsc 0 { OscUnit.reset with phase := 0x3E800000#32 }).setOsc 1
    { OscUnit.reset with phase := 0x3F000000#32 }).setOsc 2 { OscUnit.reset with phase := 0x3F400000#32 }

/-- V-OSC-12: mix 0.5, gate exactly 0.5. -/
theorem test_bankmix_gate_on :
    after (withRegs voices [(1, 0x3F000000#32), (2, 0x3F000000#32)]) 0x75848000 (fun t => t.readReg 6) =
      some 0xBED55556#32 := by
  decide +kernel

/-- V-OSC-12: a NaN gate is off. -/
theorem test_bankmix_gate_nan :
    after (withRegs voices [(1, 0x3F000000#32), (2, 0x7FC00000#32)]) 0x75848000 (fun t => t.readReg 6) =
      some 0x00000000#32 := by
  decide +kernel

/-- A delay unit with two words written. -/
def twoWords : DelayUnit :=
  { DelayUnit.reset with
    buf := Memory.writeWord (Memory.writeWord [] 0 0x3F800000#32) 1 0x40000000#32
    w := 2
    base := 0x40000000#32 }

theorem test_dcfg :
    after (withRegs (State.reset.setDly 0 { twoWords with depth := 0x3F800000#32 }) [(1, 0x40400000#32)])
      0x80040000 (fun t => t.dlyAt 0) =
      some { DelayUnit.reset with base := 0x40400000#32, depth := 0x3F800000#32 } := by
  decide +kernel

theorem test_dsetf :
    after (withRegs State.reset [(1, 0x3F000000#32)]) 0x84040000 (fun t => (t.dlyAt 0).lfoFreq) =
      some 0x3F000000#32 := by
  decide +kernel

theorem test_dsetd :
    after (withRegs State.reset [(1, 0x3F800000#32)]) 0x88040000 (fun t => (t.dlyAt 0).depth) =
      some 0x3F800000#32 := by
  decide +kernel

/-- Program P4, command 9: the sample written two ticks before. -/
theorem test_dtick :
    after (withRegs (State.reset.setDly 0 twoWords) [(2, 0x473B8000#32), (3, 0x40400000#32)]) 0x8D8C8000
      (fun t => (t.readReg 6, (t.dlyAt 0).w, memRead t.cfg (t.dlyAt 0) 2)) =
      some (0x3F800000#32, 3, 0x40400000#32) := by
  decide +kernel

/-- V-DLY-4, third tick: depth 1 at LFO phase 0.5 reads between two samples. -/
theorem test_dtick_interpolates :
    after (withRegs (State.reset.setDly 0
      { twoWords with depth := 0x3F800000#32, lfoFreq := 0x463B8000#32, lfoPhase := 0x3F000000#32 })
      [(2, 0x473B8000#32), (3, 0x40400000#32)]) 0x8D8C8000
      (fun t => (t.readReg 6, (t.dlyAt 0).lfoPhase)) = some (0x3F800001#32, 0x3F400000#32) := by
  decide +kernel

/-- V-MAP-4. -/
theorem test_rescale :
    after (withRegs State.reset [(1, 0x3E99999A#32), (3, 0x3F800000#32), (4, 0x41F00000#32),
      (5, 0x453B8000#32)]) 0xA0049000 (fun t => t.readReg 0) = some 0x44664001#32 := by
  decide +kernel

/-- The pair of r15 wraps to r0 (R81): (0.25, 0, 1, 10, 0) of V-MAP-6 with the new range in r15 and r0. -/
theorem test_rescale_pair_wraps :
    after (withRegs State.reset [(1, 0x3E800000#32), (3, 0x3F800000#32), (15, 0x41200000#32)]) 0xA004BC00
      (fun t => t.readReg 0) = some 0x40F00000#32 := by
  decide +kernel

/-- V-MAP-9. -/
theorem test_resolve :
    after (withRegs State.reset [(1, 0x3F4CCCCD#32), (2, 0x40A00000#32), (3, 0x41200000#32)]) 0xA4048C00
      (fun t => t.readReg 0) = some 0x3ECCCCCD#32 := by
  decide +kernel

/-- V-MAP-17: -0 passes the clamp. -/
theorem test_resolve_negative_zero :
    after (withRegs State.reset [(1, 0x3F4CCCCD#32), (2, 0x80000000#32), (3, 0x41200000#32)]) 0xA4048C00
      (fun t => t.readReg 0) = some 0x80000000#32 := by
  decide +kernel

/-- V-MAP-18. -/
theorem test_xfade :
    after (withRegs State.reset [(1, 0x3F800000#32), (2, 0xBF800000#32), (3, 0x3E800000#32)]) 0xA8048C00
      (fun t => t.readReg 0) = some 0x3F000000#32 := by
  decide +kernel

/-! ### The exception, the host port and reset -/

/-- V-ENC-16: UNIT_RANGE. -/
theorem test_unit_range :
    after State.reset 0x20000100 (fun t => (statusWord t, t.errCmd)) =
      some (0x00000041#32, 0x20000100#32) := by
  decide +kernel

/-- V-ENC-21: the first rejected word is kept. -/
theorem test_first_error_kept :
    after (raiseIllegal .illegalOpcode 0xFC000000#32 State.reset) 0x20000003
      (fun t => (statusWord t, t.errCmd)) = some (0x00000011#32, 0xFC000000#32) := by
  decide +kernel

/-- V-ENC-22: ID and CONFIG. -/
theorem test_id_config :
    hostWord State.reset 0x10#8 = 0x524A4D07#32 ∧ hostWord State.reset 0x11#8 = 0x00D08424#32 := by
  decide +kernel

/-- V-PINK-1: the reset state of pink unit 0. -/
theorem test_reset_pink :
    State.reset.pinkAt 0 =
      { count := 0#5
        taps := #v[0x3EA2188C#32, 0x3F602E55#32, 0x3EF7731E#32, 0x3BC1D400#32, 0x3F66336D#32]
        rng := 0xE6336D1F#32 } := by
  decide +kernel

/-- R11: in another configuration a NaN result is that configuration's. -/
theorem test_nan_result :
    (match exec (.rescale 0 1 1 1) (State.resetOf { Config.reference with nanResult := 0xFFC00001#32 }) with
      | .next t => t.readReg 0
      | .fault _ => 0#32
      | .refused _ => 0#32) = 0xFFC00001#32 := by
  decide +kernel

/-! ### Every hypothesis is met somewhere: one witness for each statement that has hypotheses, and for
each clause of it, at boundary values -/

theorem witness_SvfcfgConfiguresUnit :
    (3#4 : UnitIx).toNat < State.reset.cfg.numSvf := by decide +kernel

/-- Each mode of the selected tap. -/
theorem witness_SvfprocFiltersSample (m : FilterMode) :
    let s := State.reset.setSvf 3 { SvfUnit.reset with mode := m }
    (3#4 : UnitIx).toNat < s.cfg.numSvf ∧ (s.svfAt 3).mode = m := by
  exact ⟨by show 3 < 4; decide, by simp⟩

theorem witness_SvfSilentAfterReset :
    (0#4 : UnitIx).toNat < State.reset.cfg.numSvf ∧
    State.reset.svfAt 0 = ⟨.lowpass, 0#32, 0#32, 0#32, 0#32, 0x3F800000#32, 0#32, 0#32⟩ ∧
    F32.isFinite ((withRegs State.reset [(1, 0x7F7FFFFF#32)]).readReg 1) = true := by decide +kernel

theorem witness_PseedDrawsFiveTaps :
    (0#4 : UnitIx).toNat < State.reset.cfg.numPink ∧ State.reset.readReg 1 = 0#32 ∧
    (withRegs State.reset [(1, 1#32)]).readReg 1 ≠ 0#32 := by decide +kernel

theorem witness_PnextRedrawsOneTap :
    (0#4 : UnitIx).toNat < State.reset.cfg.numPink ∧ (State.reset.pinkAt 0).count.toNat = 0 ∧
    ((State.reset.setPink 0 { seededOne with count := 31#5 }).pinkAt 0).count.toNat = 31 := by decide +kernel

theorem witness_WhiteReturnsSample :
    (0#4 : UnitIx).toNat < State.reset.cfg.numPink := by decide +kernel

theorem witness_XorshiftStepsAndStaysNonzero :
    (0x80000000#32 : Word) ≠ 0#32 := by decide +kernel

theorem witness_TapScalesTopBits :
    Config.reference.pinkRange = 0x40A00000#32 := by decide +kernel

theorem witness_ThirtyTwoPnextRedrawEveryTap :
    (0#4 : UnitIx).toNat < State.reset.cfg.numPink := by decide +kernel

theorem witness_OscpitchSetsFrequency :
    (2#4 : UnitIx).toNat < 3 * State.reset.cfg.numBank := by decide +kernel

/-- Both sides of the loop's test: a sum below 1, and one of exactly 1. -/
theorem witness_OscstepAdvancesPhase :
    (2#4 : UnitIx).toNat < 3 * State.reset.cfg.numBank ∧ F32.isNaN State.reset.cfg.nanResult = true ∧
    phaseOk (State.reset.oscAt 2).phase ∧ phaseOk 0x3F000000#32 ∧
    F32.ge (fadd State.reset.cfg (State.reset.oscAt 2).phase 0x3F000000#32) 0x3F800000#32 = false ∧
    F32.ge (fadd State.reset.cfg 0x3F000000#32 0x3F000000#32) 0x3F800000#32 = true :=
  ⟨by decide, by decide +kernel, .inr (by decide +kernel), .inr (by decide +kernel),
    by decide +kernel, by decide +kernel⟩

/-- Firing exactly at RESET_HI, not just below it; re-arming at RESET_LO (as -0), not just above; a NaN. -/
theorem witness_OscrstFollowsHysteresis :
    (2#4 : UnitIx).toNat < 3 * State.reset.cfg.numBank ∧
    (State.reset.oscAt 2).trig = .low ∧ F32.ge 0x3F800000#32 State.reset.cfg.resetHi = true ∧
    F32.ge 0x3F7FFFFF#32 State.reset.cfg.resetHi = false ∧
    ((State.reset.setOsc 2 { OscUnit.reset with trig := .high }).oscAt 2).trig = .high ∧
    F32.le 0x80000000#32 State.reset.cfg.resetLo = true ∧
    F32.le 0x00000001#32 State.reset.cfg.resetLo = false ∧ F32.isNaN 0x7FC00000#32 = true := by decide +kernel

theorem witness_OscsawReadsWaveform :
    (2#4 : UnitIx).toNat < 3 * State.reset.cfg.numBank ∧ (State.reset.oscAt 2).offset = false ∧
    ((State.reset.setOsc 2 { OscUnit.reset with offset := true, invert := true }).oscAt 2).offset = true := by decide +kernel

theorem witness_OscmodeSetsModeBits :
    (2#4 : UnitIx).toNat < 3 * State.reset.cfg.numBank := by decide +kernel

/-- The last bank of the largest configuration, with a gate of exactly 0.5 and one just below. -/
theorem witness_BankmixWeighsVoices :
    let s := State.resetOf { Config.reference with numBank := 5 }
    (4#4 : UnitIx).toNat < s.cfg.numBank ∧ s.cfg.numBank ≤ 5 ∧
    F32.le 0x3F000000#32 0x3F000000#32 = true ∧ F32.le 0x3F000000#32 0x3EFFFFFF#32 = false := by decide +kernel

theorem witness_FiredOscillatorReadsZero :
    let s := withRegs State.reset [(1, 0x3F800000#32)]
    (2#4 : UnitIx).toNat < 3 * s.cfg.numBank ∧ (s.oscAt 2).trig = .low ∧
    F32.ge (s.readReg 1) s.cfg.resetHi = true ∧ (s.oscAt 2).offset = false ∧ (s.oscAt 2).invert = false := by decide +kernel

theorem witness_DcfgRestartsLine :
    (0#4 : UnitIx).toNat < State.reset.cfg.numDelay := by decide +kernel

theorem witness_DsetCommandsSetOneField :
    (0#4 : UnitIx).toNat < State.reset.cfg.numDelay := by decide +kernel

theorem witness_DtickProcessesSample :
    (0#4 : UnitIx).toNat < State.reset.cfg.numDelay := by decide +kernel

/-- The invariant of the rings holds at reset. -/
theorem reset_ringsOk : ringsOk State.reset := by
  intro k
  rw [show State.reset.dlyAt k = DelayUnit.reset from resetOf_dlyAt Config.reference k]
  decide +kernel

/-- The phases are wrapped at reset. -/
theorem reset_phasesOk : phasesOk State.reset := by
  refine ⟨fun j => .inr ?_, fun k => .inr ?_⟩
  · rw [show State.reset.oscAt j = OscUnit.reset from resetOf_oscAt Config.reference j]
    decide +kernel
  · rw [show State.reset.dlyAt k = DelayUnit.reset from resetOf_dlyAt Config.reference k]
    decide +kernel

/-- The generators are nonzero at reset. -/
theorem reset_generatorsOk : generatorsOk State.reset := by
  unfold generatorsOk
  decide +kernel

/-- The error record is clear at reset. -/
theorem reset_recordOk : recordOk State.reset := ⟨rfl, rfl⟩

/-- At the lowest and the highest write index: the bytes just outside the stored word. -/
theorem witness_DtickStoresOneWord :
    (0#4 : UnitIx).toNat < State.reset.cfg.numDelay ∧ ringsOk State.reset ∧
    (∃ t, exec (.dtick 1 0 2 3) State.reset = .next t) ∧
    ¬ (4 * ringIndex State.reset.cfg (State.reset.dlyAt 0).w ≤ 4 ∧
      4 < 4 * ringIndex State.reset.cfg (State.reset.dlyAt 0).w + 4) ∧
    ringIndex State.reset.cfg 8191 = 8191 :=
  ⟨by decide, reset_ringsOk, ⟨_, rfl⟩, by decide +kernel, by decide +kernel⟩

/-- An infinity; the integers -2 and -0; between integers, the least negative subnormal and 0.5. -/
theorem witness_InterpolatedReadFollowsRule :
    F32.isFinite 0x7F800000#32 = false ∧ F32.isFinite 0xC0000000#32 = true ∧
    F32.units 0xC0000000#32 = -2 * 2 ^ 149 ∧ F32.units 0x80000000#32 = 0 * 2 ^ 149 ∧
    F32.isFinite 0x80000001#32 = true ∧ -1 * 2 ^ 149 < F32.units 0x80000001#32 ∧
    F32.units 0x80000001#32 < (-1 + 1) * 2 ^ 149 ∧
    0 * 2 ^ 149 < F32.units 0x3F000000#32 ∧ F32.units 0x3F000000#32 < (0 + 1) * 2 ^ 149 := by decide +kernel

/-- The ends of `[0, 1)`, and just outside it: 1.0, the least negative subnormal and an infinity. -/
theorem witness_WrapPhaseFollowsRule :
    F32.isNaN Config.reference.nanResult = true ∧ lfoPhaseOk 0x3F7FFFFF#32 ∧ lfoPhaseOk 0x80000000#32 ∧
    F32.ge 0x3F800000#32 0x3F800000#32 = true ∧ F32.lt 0x80000001#32 0x00000000#32 = true ∧
    F32.isInf 0xFF800000#32 = true :=
  ⟨by decide +kernel, .inr (by decide +kernel), .inr (by decide +kernel), by decide +kernel,
    by decide +kernel, by decide +kernel⟩

/-- Delay 0 and the longest delay of the ring. -/
theorem witness_DtickIntegerDelay :
    (0#4 : UnitIx).toNat < State.reset.cfg.numDelay ∧ State.reset.cfg.log2Cap ≤ 24 ∧
    ringsOk State.reset ∧ (0 : Nat) < 2 ^ State.reset.cfg.log2Cap ∧
    (State.reset.dlyAt 0).base = F32.ofNat 0 ∧ F32.isZero (State.reset.dlyAt 0).depth = true ∧
    F32.isFinite (sin32 State.reset.cfg
      (fmul State.reset.cfg 0x40C90FDB#32 (State.reset.dlyAt 0).lfoPhase)) = true ∧
    8191 < 2 ^ State.reset.cfg.log2Cap ∧ F32.isFinite (F32.ofNat 8191) = true :=
  ⟨by decide, by decide, reset_ringsOk, by decide, by decide +kernel, by decide +kernel,
    by decide +kernel, by decide, by decide +kernel⟩

/-- A line of base delay 1: a first sample (before the delay) and a second one. -/
theorem witness_FixedDelayLine :
    let s := withRegs (State.reset.setDly 0 ⟨[], 0, F32.ofNat 1, 0#32, 0#32, 0#32⟩) [(2, 0x473B8000#32)]
    (0#4 : UnitIx).toNat < s.cfg.numDelay ∧ s.cfg.log2Cap ≤ 24 ∧ 1 < 2 ^ s.cfg.log2Cap ∧
    (1 : Reg) ≠ 2 ∧ (3 : Reg) ≠ 2 ∧ s.dlyAt 0 = ⟨[], 0, F32.ofNat 1, 0#32, 0#32, 0#32⟩ ∧
    F32.isNaN (s.readReg 2) = false ∧ F32.isZero (s.readReg 2) = false ∧
    [0x3F800000#32] ≠ [] ∧ [0x3F800000#32].length - 1 < 1 ∧
    ¬ ([0x3F800000#32, 0x40000000#32].length - 1 < 1) := by
  decide +kernel

theorem witness_Clamp01InUnitInterval :
    F32.isNaN 0x7FC00000#32 = true ∧ F32.lt 0x80000001#32 0x00000000#32 = true ∧
    F32.lt 0x3F800000#32 0x3F800001#32 = true ∧ F32.le 0x00000000#32 0x80000000#32 = true ∧
    F32.le 0x80000000#32 0x3F800000#32 = true ∧ F32.le 0x3F800000#32 0x3F800000#32 = true := by decide +kernel

theorem witness_XfadeEndpoints :
    F32.isNaN 0x7F800000#32 = false ∧ F32.isNaN 0xBF800000#32 = false ∧
    F32.isFinite 0xBF800000#32 = true ∧ F32.isFinite 0x7F7FFFFF#32 = true := by decide +kernel

/-- A sum that overflows, one that does not, and exact zero sums of either sign. -/
theorem witness_AddAndSubRoundToNearestEven :
    F32.isFinite 0x7F7FFFFF#32 = true ∧ F32.isFinite 0x7F7FFFFF#32 = true ∧
    F32.isInf (F32.add 0x7FC00000#32 0x7F7FFFFF#32 0x7F7FFFFF#32) = true ∧
    F32.isFinite (F32.add 0x7FC00000#32 0x7F7FFFFF#32 0x00000001#32) = true ∧
    F32.units 0x3F800000#32 + F32.units 0xBF800000#32 = 0 ∧
    F32.units 0x80000000#32 + F32.units 0x80000000#32 = 0 := by decide +kernel

/-- A product that overflows, and a tie between 0 and the least subnormal. -/
theorem witness_MulRoundsToNearestEven :
    F32.isFinite 0x7F7FFFFF#32 = true ∧ F32.isFinite 0x80000001#32 = true ∧
    F32.isInf (F32.mul 0x7FC00000#32 0x7F7FFFFF#32 0x7F7FFFFF#32) = true ∧
    F32.mul 0x7FC00000#32 0x80000001#32 0x3F000000#32 = 0x80000000#32 := by decide +kernel

theorem witness_DivRoundsToNearestEven :
    F32.isFinite 0x7F7FFFFF#32 = true ∧ F32.isFinite 0x00000001#32 = true ∧
    F32.isZero 0x00000001#32 = false ∧
    F32.isInf (F32.div 0x7FC00000#32 0x7F7FFFFF#32 0x00000001#32) = true := by decide +kernel

/-- A nonzero finite value, zeros, infinities of equal and of opposite signs, and a NaN. -/
theorem witness_SpecialOperandsFollowIeee :
    F32.isFinite 0x80000001#32 = true ∧ F32.isZero 0x80000001#32 = false ∧
    F32.isZero 0x80000000#32 = true ∧ F32.isZero 0x00000000#32 = true ∧
    F32.isInf 0xFF800000#32 = true ∧ F32.isInf 0x7F800000#32 = true ∧
    F32.sign 0xFF800000#32 ≠ F32.sign 0x7F800000#32 ∧ F32.isFinite 0x7F7FFFFF#32 = true ∧
    F32.isNaN 0x7F800001#32 = true := by decide +kernel

/-- The largest finite value and an infinity, which are numbers, and NaNs next to the infinities. -/
theorem witness_NegationAndComparison :
    F32.isNaN 0x7F800001#32 = true ∧ F32.isNaN 0xFFFFFFFF#32 = true ∧ 30 < 31 ∧
    F32.isFinite 0x7F7FFFFF#32 = true ∧ F32.isNaN 0x7F7FFFFF#32 = false ∧
    F32.isNaN 0x7F800000#32 = false := by decide +kernel

/-- The largest finite value, R13's example -0.5, a zero, an infinity, NaNs and 2^24. -/
theorem witness_HelperFunctionsFollowRule :
    F32.isFinite 0x7F7FFFFF#32 = true ∧ F32.isFinite 0xBF000000#32 = true ∧
    F32.floor32 0xBF000000#32 = 0xBF800000#32 ∧ F32.rha 0xBF000000#32 = 0xBF800000#32 ∧
    F32.units 0xBF800000#32 = -1 * 2 ^ 149 ∧ F32.isFinite 0x7F800000#32 = false ∧
    F32.isZero 0x80000000#32 = true ∧ F32.isNaN 0x7F800001#32 = true ∧
    F32.isNaN 0x3F800000#32 = false ∧ (2 : Nat) ^ 24 ≤ 2 ^ 24 := by decide +kernel

/-- A NaN, an infinity, the integers -126 and 127, two configurations that differ in their sine alone,
and a listed value just below 128. -/
theorem witness_TranscendentalsFollowConfiguration :
    F32.isNaN 0x7F800001#32 = true ∧ F32.isInf 0xFF800000#32 = true ∧
    F32.isFinite 0xC2FC0000#32 = true ∧ F32.units 0xC2FC0000#32 = -126 * 2 ^ 149 ∧
    F32.units 0x42FE0000#32 = 127 * 2 ^ 149 ∧
    Config.reference.tanFn = ({ Config.reference with sinFn := .other 1 } : Config).tanFn ∧
    F32.isFinite 0x42FFFFFF#32 = true ∧
    [((0x42FFFFFF#32 : Word), (1#32 : Word))].lookup 0x42FFFFFF#32 = some 1#32 ∧
    (0x42FFFFFF#32 : Word) ≠ 0x00000000#32 ∧ F32.units 0x42FFFFFF#32 < 128 * 2 ^ 149 ∧
    F32.units 0x42FFFFFF#32 % 2 ^ 149 ≠ 0 := by decide +kernel

/-- R7, R15: a block with a given tangent and the reference sine; R101 takes the tangent alone. -/
theorem test_given_tangent :
    let c := { Config.reference with tanFn := .given [(0x3F000000#32, 0x3F000001#32)] }
    tan32 c 0x3F000000#32 = 0x3F000001#32 ∧ tan32 c 0x7FC00000#32 = 0x7FC00000#32 ∧
    sin32 c 0x3F000000#32 = sin32 Config.reference 0x3F000000#32 := by
  decide +kernel

theorem witness_EncodeDecodeAgree :
    decode 0x25040000#32 = .ok (.svfproc 4 0 1) := by decide +kernel

theorem witness_StepRunsDecodedCommand :
    (State.reset.withFetchWord 32 0x04403F80).port = .write 0x14#8 0x04403F80#32 :: [] ∧
    decode 0x04403F80#32 = .ok (.luih 1 0x3F80#16) := by decide +kernel

theorem witness_RejectedWordIsRecorded :
    (State.reset.withFetchWord 32 0x20000100).port = .write 0x14#8 0x20000100#32 :: [] ∧
    rejection State.reset.cfg 0x20000100#32 = some .unitRange ∧
    rejection State.reset.cfg 0xFC000000#32 = some .illegalOpcode ∧ State.reset.err = false ∧
    (raiseIllegal .illegalOpcode 0xFC000000#32 State.reset).err = true := by decide +kernel

theorem witness_UnitOutOfRangeIsRejected :
    Instr.wellFormed State.reset.cfg (.svfproc 0 4 0) = false ∧
    Instr.wellFormed State.reset.cfg (.bankmix 0 15 0 0) = false := by decide +kernel

theorem witness_CommandsKeepRecordedError :
    let s := raiseIllegal .illegalOpcode 0xFC000000#32 State.reset
    s.err = true ∧ (∃ t, command 0x04403F80#32 s = .next t) ∧ ∃ t, command 0x20000003#32 s = .next t :=
  ⟨rfl, ⟨_, rfl⟩, ⟨_, rfl⟩⟩

theorem witness_HostMapReads :
    Config.Legal State.reset.cfg ∧ (0x16#8 : BitVec 8) ≤ 0x16#8 ∧ (0x16#8 : BitVec 8) ≤ 0xFF#8 := by decide +kernel

theorem witness_HostMapWrites :
    (0xFFFFFFFE#32 : Word).getLsbD 0 = false ∧ (0x16#8 : BitVec 8) ≤ 0xFF#8 := by decide +kernel

theorem witness_StepServesOldestTransaction :
    ({ State.reset with port := [.read 0x12#8] } : State).port = .read 0x12#8 :: [] ∧
    ({ State.reset with port := [.write 0x12#8 1#32] } : State).port = .write 0x12#8 1#32 :: [] ∧
    State.reset.port = [] := by decide +kernel

theorem witness_ResetWriteResetsEverything :
    (0x00000001#32 : Word).getLsbD 0 = true := by decide +kernel

theorem witness_CommandWritesOnlyItsUnit :
    (∃ t, exec (.svfproc 1 0 2) State.reset = .next t) ∧
    Instr.target (.svfproc 1 0 2) ≠ some (.svf 1) ∧ Instr.target (.svfproc 1 0 2) ≠ some (.pink 0) ∧
    Instr.target (.svfproc 1 0 2) ≠ some (.osc 0) ∧ Instr.target (.svfproc 1 0 2) ≠ some (.dly 0) ∧
    Instr.storesTo (.dtick 1 0 2 3) ≠ some 1 :=
  ⟨⟨_, rfl⟩, by decide, by decide, by decide, by decide, by decide⟩

theorem witness_CommandWritesOnlyItsRegister :
    (∃ t, exec (.svfproc 1 0 2) State.reset = .next t) ∧ Instr.dest (.svfproc 1 0 2) ≠ some 2 ∧
    Instr.wellFormed State.reset.cfg (.svfproc 1 0 2) = true ∧
    (∃ t, exec (.svfproc 1 4 2) State.reset = .next t) ∧
    Instr.wellFormed State.reset.cfg (.svfproc 1 4 2) = false :=
  ⟨⟨_, rfl⟩, by decide, by decide, ⟨_, rfl⟩, by decide⟩

theorem witness_StepKeepsErrorRecord :
    recordOk (State.reset.withFetchWord 32 0xFC000000) ∧
      ∃ t, step (State.reset.withFetchWord 32 0xFC000000) = .next t :=
  ⟨reset_recordOk, ⟨_, rfl⟩⟩

theorem witness_StepKeepsRings :
    ringsOk (State.reset.withFetchWord 32 0x8D0C8000) ∧
      ∃ t, step (State.reset.withFetchWord 32 0x8D0C8000) = .next t :=
  ⟨reset_ringsOk, ⟨_, rfl⟩⟩

theorem witness_StepKeepsUnitsInRange :
    F32.isNaN (State.reset.withFetchWord 32 0x44800000).cfg.nanResult = true ∧
    generatorsOk (State.reset.withFetchWord 32 0x44800000) ∧
    phasesOk (State.reset.withFetchWord 32 0x44800000) ∧
    ∃ t, step (State.reset.withFetchWord 32 0x44800000) = .next t :=
  ⟨by decide +kernel, reset_generatorsOk, reset_phasesOk, ⟨_, rfl⟩⟩

theorem witness_StepNeverStops :
    F32.isNaN (State.reset.withFetchWord 32 0x64040000).cfg.nanResult = true ∧
    phasesOk (State.reset.withFetchWord 32 0x64040000) :=
  ⟨by decide +kernel, reset_phasesOk⟩

end Sys2Proof.Tests
end

section
/-! PROOFS. The grid of binary32 magnitudes and rounding to it (spec/00_scope.md R8, R9): magnitudes are
strictly increasing in their pattern, and `round` gives the nearest one, ties to even. -/

namespace Sys2Proof.F32

/-! ### The grid of magnitudes -/

/-- Patterns in the binade of step `2^s` (with the subnormals for `s = 0`), its upper end included. -/
theorem magUnits_binade {s q : Nat} (hq : q ≤ 2 ^ 24) (hs : s = 0 ∨ 2 ^ 23 ≤ q) :
    magUnits (s * 2 ^ 23 + q) = q * 2 ^ s := by
  have lower : q < 2 ^ 23 ∨ (2 ^ 23 ≤ q ∧ q < 2 ^ 24) ∨ q = 2 ^ 24 := by omega
  obtain hlt | ⟨hge, hlt⟩ | rfl := lower
  · obtain rfl : s = 0 := by omega
    simp only [magUnits, show (0 * 2 ^ 23 + q) / 2 ^ 23 = 0 by omega, if_true]
    omega
  · have hdiv : (s * 2 ^ 23 + q) / 2 ^ 23 = s + 1 := by omega
    have hmod : (s * 2 ^ 23 + q) % 2 ^ 23 = q - 2 ^ 23 := by omega
    rw [magUnits, hdiv, hmod, if_neg (Nat.succ_ne_zero s), Nat.add_sub_cancel,
      Nat.add_sub_cancel' hge]
  · have hdiv : (s * 2 ^ 23 + 2 ^ 24) / 2 ^ 23 = s + 2 := by omega
    have hmod : (s * 2 ^ 23 + 2 ^ 24) % 2 ^ 23 = 0 := by omega
    rw [magUnits, hdiv, hmod, if_neg (Nat.succ_ne_zero _)]
    show 2 ^ 23 * 2 ^ (s + 1) = 2 ^ 24 * 2 ^ s
    ring

@[simp] theorem magUnits_zero : magUnits 0 = 0 := rfl

/-- The step of the binade a pattern lies in, and its significand. -/
theorem exists_binade (m : Nat) :
    ∃ s q, m = s * 2 ^ 23 + q ∧ q < 2 ^ 24 ∧ (s = 0 ∨ 2 ^ 23 ≤ q) :=
  ⟨m / 2 ^ 23 - 1, m - (m / 2 ^ 23 - 1) * 2 ^ 23, by omega, by omega, by omega⟩

theorem magUnits_strictMono : StrictMono magUnits := by
  refine strictMono_nat_of_lt_succ fun m => ?_
  obtain ⟨s, q, rfl, hq, hs⟩ := exists_binade m
  rw [Nat.add_assoc, magUnits_binade hq.le hs, magUnits_binade (q := q + 1) hq (by omega)]
  exact Nat.mul_lt_mul_of_pos_right q.lt_succ_self (Nat.two_pow_pos s)

theorem magUnits_eq_zero {m : Nat} : magUnits m = 0 ↔ m = 0 :=
  magUnits_strictMono.injective.eq_iff' magUnits_zero

/-- From the binade of step `2^s` upwards every magnitude is a multiple of the step. -/
theorem two_pow_dvd_magUnits {s m : Nat} (h : (s + 1) * 2 ^ 23 ≤ m) : 2 ^ s ∣ magUnits m := by
  obtain ⟨t, q, rfl, hq, hs⟩ := exists_binade m
  rw [magUnits_binade hq.le hs]
  exact Dvd.dvd.mul_left (Nat.pow_dvd_pow 2 (by omega)) q

/-- The infinity's pattern stands for 2^277, one step past the largest finite magnitude. -/
theorem magUnits_inf : magUnits 0x7F800000 = 2 ^ 24 * 2 ^ 253 :=
  magUnits_binade (s := 253) (q := 2 ^ 24) le_rfl (by omega)

theorem magUnits_maxFinite : magUnits 0x7F7FFFFF = (2 ^ 24 - 1) * 2 ^ 253 :=
  magUnits_binade (s := 253) (q := 2 ^ 24 - 1) (by omega) (by omega)

/-- Every multiple of `2^s` with a significand of 24 bits is a magnitude. -/
theorem exists_magUnits_eq (s : Nat) : ∀ {q : Nat}, q ≤ 2 ^ 24 → ∃ m, magUnits m = q * 2 ^ s := by
  induction s with
  | zero => exact fun hq => ⟨_, magUnits_binade hq (.inl rfl)⟩
  | succ s ih =>
    intro q hq
    by_cases hge : 2 ^ 23 ≤ q
    · exact ⟨_, magUnits_binade hq (.inr hge)⟩
    · obtain ⟨m, hm⟩ := ih (q := q * 2) (by omega)
      exact ⟨m, by rw [hm, pow_succ]; ring⟩

/-! ### Rounding a quotient to the nearest integer -/

/-- The rounded quotient is within half a divisor, and even where it is exactly half a divisor off. -/
theorem quotNearestEven_spec (num : Nat) {den : Nat} (hden : 0 < den) :
    2 * num ≤ 2 * (quotNearestEven num den * den) + den ∧
    2 * (quotNearestEven num den * den) ≤ 2 * num + den ∧
    (2 * num = 2 * (quotNearestEven num den * den) + den ∨
      2 * (quotNearestEven num den * den) = 2 * num + den → quotNearestEven num den % 2 = 0) := by
  have hdiv : num / den * den + num % den = num := Nat.div_add_mod' num den
  have hmod : num % den < den := Nat.mod_lt num hden
  unfold quotNearestEven
  split
  · rw [Nat.add_mul, one_mul]
    omega
  · omega

/-- How far `v` is from `num / den`, in multiples of `1 / den`. -/
def gap (num den v : Nat) : Nat := (v * den - num) + (num - v * den)

/-- No integer is nearer than the rounded quotient, which is even where another is as near. -/
theorem gap_quotNearestEven_le (num : Nat) {den : Nat} (hden : 0 < den) (k : Nat) :
    gap num den (quotNearestEven num den) ≤ gap num den k ∧
    (k ≠ quotNearestEven num den → gap num den (quotNearestEven num den) = gap num den k →
      quotNearestEven num den % 2 = 0) := by
  obtain ⟨hlow, hhigh, heven⟩ := quotNearestEven_spec num hden
  unfold gap
  generalize quotNearestEven num den = q at *
  obtain hlt | rfl | hgt := lt_trichotomy k q
  · have step : (k + 1) * den ≤ q * den := Nat.mul_le_mul_right den hlt
    rw [Nat.succ_mul] at step
    omega
  · exact ⟨le_rfl, fun h => absurd rfl h⟩
  · have step : (q + 1) * den ≤ k * den := Nat.mul_le_mul_right den hgt
    rw [Nat.succ_mul] at step
    omega

/-! ### Rounding to the grid, before overflow -/

/-- The exponent of the step at which `roundMag` rounds. -/
def roundShift (num den : Nat) : Nat := Nat.log2 (num / den) - 23

/-- The significand `roundMag` finds at that step. -/
def roundSig (num den : Nat) : Nat := quotNearestEven num (den * 2 ^ roundShift num den)

/-- The pattern `roundMag` finds before it is bounded by the infinity. -/
def nearestMag (num den : Nat) : Nat := roundShift num den * 2 ^ 23 + roundSig num den

theorem roundMag_eq (num den : Nat) : roundMag num den = min (nearestMag num den) 0x7F800000 := rfl

/-- Where the step is coarser than one unit, the quotient has 24 bits above it. -/
theorem le_div_of_roundShift_pos {num den : Nat} (h : 0 < roundShift num den) :
    2 ^ (23 + roundShift num den) ≤ num / den := by
  have hne : num / den ≠ 0 := by
    intro h0
    rw [roundShift, h0] at h
    exact absurd h (by decide)
  refine (Nat.le_log2 hne).mp ?_
  unfold roundShift at *
  omega

theorem div_lt_two_pow_roundShift (num den : Nat) :
    num / den < 2 ^ 24 * 2 ^ roundShift num den := by
  by_cases hne : num / den = 0
  · rw [hne]; positivity
  · rw [← pow_add, ← Nat.log2_lt hne, roundShift]
    omega

theorem roundSig_le (num den : Nat) : roundSig num den ≤ 2 ^ 24 := by
  have hlt : num / (den * 2 ^ roundShift num den) < 2 ^ 24 := by
    rw [← Nat.div_div_eq_div_mul]
    exact Nat.div_lt_of_lt_mul (by rw [mul_comm]; exact div_lt_two_pow_roundShift num den)
  have := quotNearestEven_cases num (den * 2 ^ roundShift num den)
  unfold roundSig
  omega

theorem le_roundSig {num den : Nat} (h : 0 < roundShift num den) : 2 ^ 23 ≤ roundSig num den := by
  have hle : 2 ^ 23 ≤ num / (den * 2 ^ roundShift num den) := by
    rw [← Nat.div_div_eq_div_mul, Nat.le_div_iff_mul_le (Nat.two_pow_pos _), ← pow_add]
    exact le_div_of_roundShift_pos h
  have := quotNearestEven_cases num (den * 2 ^ roundShift num den)
  unfold roundSig
  omega

theorem magUnits_nearestMag (num den : Nat) :
    magUnits (nearestMag num den) = roundSig num den * 2 ^ roundShift num den :=
  magUnits_binade (roundSig_le num den)
    ((Nat.eq_zero_or_pos _).imp_right fun h => le_roundSig h)

/-- A coarser divisor measures the same distances from its own multiples. -/
theorem gap_mul (num den v w : Nat) : gap num den (v * w) = gap num (den * w) v := by
  rw [gap, gap, show v * w * den = v * (den * w) by ring]

/-- `m` is a magnitude pattern nearest to `num / den` units, and even where another is as near. -/
def Nearest (num den m : Nat) : Prop :=
  ∀ k, gap num den (magUnits m) ≤ gap num den (magUnits k) ∧
    (k ≠ m → gap num den (magUnits m) = gap num den (magUnits k) → m % 2 = 0)

theorem nearestMag_nearest (num : Nat) {den : Nat} (hden : 0 < den) :
    Nearest num den (nearestMag num den) := by
  intro m
  have hparity : nearestMag num den % 2 = roundSig num den % 2 := by unfold nearestMag; omega
  have hstep : 0 < den * 2 ^ roundShift num den := Nat.mul_pos hden (Nat.two_pow_pos _)
  rw [magUnits_nearestMag, gap_mul, hparity]
  by_cases hm : roundShift num den = 0 ∨ (roundShift num den + 1) * 2 ^ 23 ≤ m
  · -- `m` is a multiple of the step, so it competes with the rounded significand
    obtain ⟨k, hk⟩ : 2 ^ roundShift num den ∣ magUnits m := by
      obtain h0 | hle := hm
      · simp [h0]
      · exact two_pow_dvd_magUnits hle
    obtain ⟨hnear, htie⟩ := gap_quotNearestEven_le num hstep k
    rw [hk, mul_comm _ k, gap_mul]
    refine ⟨hnear, fun hne heq => htie (fun hkq => hne ?_) heq⟩
    apply magUnits_strictMono.injective
    rw [magUnits_nearestMag, hk, hkq, mul_comm]
    rfl
  · -- `m` is below the binade of the quotient, whose lower end is strictly nearer
    obtain ⟨hpos, hlt⟩ : 0 < roundShift num den ∧ m < roundShift num den * 2 ^ 23 + 2 ^ 23 := by
      omega
    have hbelow : magUnits m < 2 ^ 23 * 2 ^ roundShift num den := by
      rw [← magUnits_binade (by omega) (.inr le_rfl)]
      exact magUnits_strictMono hlt
    have hend : 2 ^ 23 * 2 ^ roundShift num den * den ≤ num := by
      rw [← Nat.le_div_iff_mul_le hden, ← pow_add]
      exact le_div_of_roundShift_pos hpos
    have hcloser : gap num den (2 ^ 23 * 2 ^ roundShift num den) < gap num den (magUnits m) := by
      have := Nat.mul_lt_mul_of_pos_right hbelow hden
      unfold gap
      omega
    have hnear : gap num (den * 2 ^ roundShift num den) (roundSig num den) ≤ _ :=
      (gap_quotNearestEven_le num hstep (2 ^ 23)).1
    rw [← gap_mul num den (2 ^ 23)] at hnear
    omega

/-! ### Overflow (R9) -/

/-- The threshold is the middle of the largest finite magnitude and the infinity's place on the scale. -/
theorem exists_overflow_halfStep : ∃ h, 0 < h ∧ magUnits 0x7F7FFFFF = (2 ^ 25 - 2) * h ∧
    overflowAt = (2 ^ 25 - 1) * h ∧ magUnits 0x7F800000 = 2 ^ 25 * h :=
  ⟨2 ^ 252, Nat.two_pow_pos _, magUnits_maxFinite.trans rfl, by decide +kernel, magUnits_inf.trans rfl⟩

/-- A result stays below the infinity just where it is below the threshold. -/
theorem nearestMag_lt_inf_iff (num : Nat) {den : Nat} (hden : 0 < den) :
    nearestMag num den < 0x7F800000 ↔ num < overflowAt * den := by
  obtain ⟨h, hpos, hmax, hover, hinf⟩ := exists_overflow_halfStep
  have hunit : 0 < h * den := Nat.mul_pos hpos hden
  have hmaxDen : magUnits 0x7F7FFFFF * den = (2 ^ 25 - 2) * (h * den) := by rw [hmax, Nat.mul_assoc]
  have hinfDen : magUnits 0x7F800000 * den = 2 ^ 25 * (h * den) := by rw [hinf, Nat.mul_assoc]
  obtain ⟨hnearMax, -⟩ := nearestMag_nearest num hden 0x7F7FFFFF
  obtain ⟨hnearInf, htieInf⟩ := nearestMag_nearest num hden 0x7F800000
  rw [hover, Nat.mul_assoc]
  unfold gap at *
  generalize h * den = unit at *
  constructor
  · intro hlt
    by_contra hge
    by_cases hM : nearestMag num den = 0x7F7FFFFF
    · rw [← hM] at hmaxDen
      omega
    · have hbelow : magUnits (nearestMag num den) < magUnits 0x7F7FFFFF :=
        magUnits_strictMono (by omega)
      have := Nat.mul_lt_mul_of_pos_right hbelow hden
      omega
  · intro hnum
    by_contra hge
    have := Nat.mul_le_mul_right den (magUnits_strictMono.monotone (not_lt.mp hge))
    omega

/-- Below the threshold the rounded magnitude is finite and nearest, ties to even. -/
theorem roundMag_nearest {num den : Nat} (hden : 0 < den) (h : num < overflowAt * den) :
    roundMag num den < 0x7F800000 ∧ Nearest num den (roundMag num den) := by
  have hlt := (nearestMag_lt_inf_iff num hden).mpr h
  rw [roundMag_eq, Nat.min_eq_left hlt.le]
  exact ⟨hlt, nearestMag_nearest num hden⟩

/-- From the threshold on the rounded magnitude is the infinity. -/
theorem roundMag_overflow {num den : Nat} (hden : 0 < den) (h : overflowAt * den ≤ num) :
    roundMag num den = 0x7F800000 := by
  have hge := mt (nearestMag_lt_inf_iff num hden).mp (not_lt.mpr h)
  rw [roundMag_eq, Nat.min_eq_right (not_lt.mp hge)]

/-- Rounding a magnitude of the grid changes nothing. -/
theorem roundMag_magUnits {m : Nat} (hm : m ≤ 0x7F800000) : roundMag (magUnits m) 1 = m := by
  obtain ⟨hnear, -⟩ := nearestMag_nearest (magUnits m) one_pos m
  have heq : magUnits (nearestMag (magUnits m) 1) = magUnits m := by
    unfold gap at hnear
    omega
  rw [roundMag_eq, magUnits_strictMono.injective heq, Nat.min_eq_left hm]

/-! ### Signs and values of patterns -/

theorem units_eq (v : Word) :
    units v = if sign v then -(magUnits (mag v) : Int) else (magUnits (mag v) : Int) := rfl

@[simp] theorem natAbs_units (v : Word) : (units v).natAbs = magUnits (mag v) := by
  rw [units_eq]
  split <;> simp

theorem sign_iff_units_neg {v : Word} (h : units v ≠ 0) : sign v = true ↔ units v < 0 := by
  rw [units_eq] at *
  cases sign v <;> simp at h ⊢
  omega

theorem units_eq_zero_iff {v : Word} : units v = 0 ↔ isZero v = true := by
  rw [← Int.natAbs_eq_zero, natAbs_units, magUnits_eq_zero, isZero, decide_eq_true_iff]

theorem mag_eq_toNat_setWidth (v : Word) : mag v = (v.setWidth 31).toNat := by
  rw [BitVec.toNat_setWidth, mag]

@[simp] theorem mag_neg (v : Word) : mag (neg v) = mag v := by
  rw [mag_eq_toNat_setWidth, mag_eq_toNat_setWidth, neg, BitVec.setWidth_xor]
  simp

@[simp] theorem sign_neg (v : Word) : sign (neg v) = !sign v := by
  simp [sign, neg, show (0x80000000#32).msb = true from rfl]

@[simp] theorem units_neg (v : Word) : units (neg v) = -units v := by
  rw [units_eq, units_eq, sign_neg, mag_neg]
  cases sign v <;> simp

@[simp] theorem isNaN_neg (v : Word) : isNaN (neg v) = isNaN v := by simp [isNaN]
@[simp] theorem isInf_neg (v : Word) : isInf (neg v) = isInf v := by simp [isInf]
@[simp] theorem isFinite_neg (v : Word) : isFinite (neg v) = isFinite v := by simp [isFinite]

/-- The lowest bit of a pattern is the parity of its magnitude. -/
theorem getLsbD_zero_eq (v : Word) : v.getLsbD 0 = decide (mag v % 2 = 1) := by
  rw [BitVec.getLsbD, Nat.testBit_zero, mag]
  congr 2
  omega

@[simp] theorem mag_round (s : Bool) (num den : Nat) : mag (round s num den) = roundMag num den :=
  mag_pack s _ (by have := roundMag_le num den; omega)

/-- A zero with a sign is a rounded zero. -/
theorem pack_zero (s : Bool) : pack s 0 = round s 0 1 := rfl

/-! ### Rounding a signed value -/

/-- The distance of a pattern's value from `num / den`, its sign being that of `num` or not. -/
theorem abs_units_mul_sub (z : Word) (num : Int) (den : Nat) :
    |units z * den - num| = if sign z = true ↔ num < 0 then
      (gap num.natAbs den (magUnits (mag z)) : Int)
      else ((magUnits (mag z) * den + num.natAbs : Nat) : Int) := by
  have hcast : ((magUnits (mag z) * den : Nat) : Int) = magUnits (mag z) * den := by push_cast; rfl
  rw [Int.abs_eq_natAbs, units_eq, gap]
  cases sign z
  · simp only [Bool.false_eq_true, false_iff, if_false, ← hcast]
    split <;> omega
  · simp only [true_iff, if_true, neg_mul, ← hcast]
    split <;> omega

theorem gap_le_abs_units_mul_sub (z : Word) (num : Int) (den : Nat) :
    (gap num.natAbs den (magUnits (mag z)) : Int) ≤ |units z * den - num| := by
  rw [abs_units_mul_sub]
  split
  · rfl
  · unfold gap; omega

theorem abs_units_mul_sub_of_sign {z : Word} {num : Int} {den : Nat}
    (hs : num ≠ 0 → (sign z = true ↔ num < 0)) :
    |units z * den - num| = gap num.natAbs den (magUnits (mag z)) := by
  rw [abs_units_mul_sub]
  split
  · rfl
  · obtain rfl : num = 0 := by by_contra h; exact absurd (hs h) ‹_›
    simp [gap]

/-- Two values of equal magnitude differ only by their signs, and are not zeros. -/
theorem sign_eq_not_of_units_ne {z r : Word} (hm : mag z = mag r) (h : units z ≠ units r) :
    sign z = !sign r ∧ magUnits (mag r) ≠ 0 := by
  rw [units_eq, units_eq, hm] at h
  constructor
  · by_contra hs
    exact h (by rw [Bool.eq_not_iff, not_not] at hs; rw [hs])
  · intro h0
    simp [h0] at h

/-- A nonzero value of the wrong sign is further off than its negation. -/
theorem gap_lt_abs_of_wrong_sign {z : Word} {num : Int} {den : Nat} (hden : 0 < den)
    (hz : magUnits (mag z) ≠ 0) (hnum : num ≠ 0) (hs : ¬(sign z = true ↔ num < 0)) :
    (gap num.natAbs den (magUnits (mag z)) : Int) < |units z * den - num| := by
  have hpos := Nat.mul_pos (Nat.pos_of_ne_zero hz) hden
  rw [abs_units_mul_sub, if_neg hs, gap]
  omega

/-- Zero alone is nearest to zero. -/
theorem Nearest.eq_zero {den m : Nat} (hden : 0 < den) (h : Nearest 0 den m) : m = 0 := by
  obtain ⟨hle, -⟩ := h 0
  rw [magUnits_zero, gap, gap] at hle
  have hm : magUnits m * den = 0 := by omega
  exact magUnits_eq_zero.mp ((Nat.mul_eq_zero.mp hm).resolve_right hden.ne')

/-- Below the overflow threshold, a nearest magnitude with the sign of a nonzero value rounds it
correctly (R9). -/
theorem roundsTo_of_nearest {r : Word} {num : Int} {den : Nat} (hden : 0 < den)
    (hs : num ≠ 0 → (sign r = true ↔ num < 0)) (hnum : num.natAbs < overflowAt * den)
    (hfin : isFinite r = true) (hnear : Nearest num.natAbs den (mag r)) : RoundsTo num den r := by
  rw [RoundsTo, if_pos hfin, abs_units_mul_sub_of_sign hs]
  refine ⟨by rw [Int.abs_eq_natAbs]; exact_mod_cast hnum, fun z _ => ?_, fun z _ hne heq => ?_⟩
  · exact (Int.ofNat_le.mpr (hnear (mag z)).1).trans (gap_le_abs_units_mul_sub z num den)
  · obtain ⟨hle, htie⟩ := hnear (mag z)
    by_cases hz : mag z = mag r
    · -- the same magnitude with the other sign is no tie
      obtain ⟨hsign, hpos⟩ := sign_eq_not_of_units_ne hz hne
      rw [← hz] at hpos heq
      have hnum0 : num ≠ 0 := by
        rintro rfl
        rw [hz, Nearest.eq_zero hden hnear] at hpos
        exact hpos rfl
      have hwrong : ¬(sign z = true ↔ num < 0) := by
        rw [← hs hnum0, hsign]
        cases sign r <;> decide
      exact absurd heq (gap_lt_abs_of_wrong_sign hden hpos hnum0 hwrong).ne
    · have hge := gap_le_abs_units_mul_sub z num den
      have heven := htie hz (by omega)
      rw [getLsbD_zero_eq, heven]
      rfl

/-- `round` rounds correctly (R9) once its sign is that of a nonzero value. -/
theorem roundsTo_round {s : Bool} {num : Int} {den : Nat} (hden : 0 < den)
    (hs : num ≠ 0 → (s = true ↔ num < 0)) : RoundsTo num den (round s num.natAbs den) := by
  by_cases hnum : num.natAbs < overflowAt * den
  · obtain ⟨hlt, hnear⟩ := roundMag_nearest hden hnum
    refine roundsTo_of_nearest hden (by rwa [sign_round]) hnum ?_ (by rwa [mag_round])
    rw [isFinite, mag_round, decide_eq_true hlt]
  · have hover := not_lt.mp hnum
    have hmag := roundMag_overflow hden hover
    have hinf : isFinite (round s num.natAbs den) = false := by
      rw [isFinite, mag_round, hmag]; rfl
    have hne : num ≠ 0 := by
      rintro rfl
      exact hnum (Nat.mul_pos (by decide +kernel) hden)
    rw [RoundsTo, hinf, if_neg (by decide), isInf, mag_round, sign_round, Int.abs_eq_natAbs]
    exact ⟨decide_eq_true hmag, by exact_mod_cast hover, hs hne⟩

end Sys2Proof.F32
end

section
/-! PROOFS. Sums, differences, products and quotients of finite operands (spec/00_scope.md R9). -/

namespace Sys2Proof.F32

/-- A sum of finite operands is one rounding, of a zero sum too. -/
theorem add_eq_round (nan : Word) {a b : Word} (ha : isFinite a = true) (hb : isFinite b = true) :
    add nan a b = round (if units a + units b = 0 then sign a && sign b
      else decide (units a + units b < 0)) (units a + units b).natAbs 1 := by
  split
  case isTrue hz =>
    rw [hz, Int.natAbs_zero, ← pack_zero]
    simp [add, isFinite_not_isNaN ha, isFinite_not_isNaN hb, isFinite_not_isInf ha,
      isFinite_not_isInf hb, hz]
  case isFalse hz => exact add_finite ha hb hz

theorem roundsTo_add (nan : Word) {a b : Word} (ha : isFinite a = true) (hb : isFinite b = true) :
    RoundsTo (units a + units b) 1 (add nan a b) := by
  rw [add_eq_round nan ha hb]
  exact roundsTo_round one_pos fun hz => by rw [if_neg hz, decide_eq_true_iff]

/-- The exclusive or of the signs is the sign of a product that is not zero. -/
theorem sign_bne_iff_mul_neg {a b : Word} (ha : units a ≠ 0) (hb : units b ≠ 0) :
    (sign a != sign b) = true ↔ units a * units b < 0 := by
  rw [bne_iff_ne, ne_eq, Bool.eq_iff_iff, sign_iff_units_neg ha, sign_iff_units_neg hb, mul_neg_iff]
  omega

theorem roundsTo_mul (nan : Word) {a b : Word} (ha : isFinite a = true) (hb : isFinite b = true) :
    RoundsTo (units a * units b) (2 ^ 149) (mul nan a b) := by
  rw [mul_finite ha hb, ← natAbs_units a, ← natAbs_units b, ← Int.natAbs_mul]
  exact roundsTo_round (Nat.two_pow_pos _) fun hz =>
    sign_bne_iff_mul_neg (left_ne_zero_of_mul hz) (right_ne_zero_of_mul hz)

theorem roundsTo_div (nan : Word) {a b : Word} (ha : isFinite a = true) (hb : isFinite b = true)
    (hbz : isZero b = false) :
    RoundsTo (units a * 2 ^ 149 * (units b).sign) (units b).natAbs (div nan a b) := by
  have hb0 : units b ≠ 0 := fun h => by simp [units_eq_zero_iff.mp h] at hbz
  have hnum : (units a * 2 ^ 149 * (units b).sign).natAbs = magUnits (mag a) * unit1 := by
    rw [Int.natAbs_mul, Int.natAbs_mul, Int.natAbs_sign_of_ne_zero hb0, natAbs_units, Int.natAbs_pow,
      mul_one]
    rfl
  rw [div_finite ha hb hbz, ← hnum, ← natAbs_units b]
  refine roundsTo_round (Int.natAbs_pos.mpr hb0) fun hz => ?_
  have ha0 : units a ≠ 0 := left_ne_zero_of_mul (left_ne_zero_of_mul hz)
  rw [sign_bne_iff_mul_neg ha0 hb0]
  rw [← Int.sign_eq_neg_one_iff_neg, ← Int.sign_eq_neg_one_iff_neg, Int.sign_mul, Int.sign_mul,
    Int.sign_mul, Int.sign_sign, Int.sign_eq_one_of_pos (by positivity : (0 : Int) < 2 ^ 149), mul_one]

end Sys2Proof.F32

namespace Sys2Proof

/-- Settles O35: each is one rounding of the exact sum, a difference being the sum with `-b`. -/
theorem addAndSubRoundToNearestEven : Obligations.AddAndSubRoundToNearestEven := by
  intro nan a b ha hb
  refine ⟨F32.roundsTo_add nan ha hb, ?_, fun hz => ?_⟩
  · rw [sub_eq_add_neg, ← F32.units_neg]
    exact F32.roundsTo_add nan ha ((F32.isFinite_neg b).trans hb)
  · rw [F32.add_eq_round nan ha hb, if_pos hz, hz, Int.natAbs_zero, ← F32.pack_zero]
    cases F32.sign a && F32.sign b <;> rfl

/-- Settles O36: the product is one rounding with the signs' exclusive or. -/
theorem mulRoundsToNearestEven : Obligations.MulRoundsToNearestEven := fun nan a b ha hb =>
  ⟨F32.roundsTo_mul nan ha hb, by rw [F32.mul_finite ha hb, F32.sign_round]⟩

/-- Settles O37: the quotient is one rounding with the signs' exclusive or. -/
theorem divRoundsToNearestEven : Obligations.DivRoundsToNearestEven := fun nan a b ha hb hz =>
  ⟨F32.roundsTo_div nan ha hb hz, by rw [F32.div_finite ha hb hz, F32.sign_round]⟩

end Sys2Proof
end

section
/-! PROOFS. Zeros, infinities and NaNs as operands (spec/00_scope.md R9, R11). -/

namespace Sys2Proof.F32

theorem isZero_isFinite {v : Word} (h : isZero v = true) : isFinite v = true := by
  simp only [isZero, isFinite, decide_eq_true_eq] at *
  omega

theorem isNaN_not_isFinite {v : Word} (h : isNaN v = true) : isFinite v = false := by
  simp only [isNaN, isFinite, decide_eq_true_eq, decide_eq_false_iff_not] at *
  omega

theorem isInf_not_isFinite {v : Word} (h : isInf v = true) : isFinite v = false := by
  simp only [isInf, isFinite, decide_eq_true_eq, decide_eq_false_iff_not] at *
  omega

theorem isInf_not_isZero {v : Word} (h : isInf v = true) : isZero v = false := by
  simp only [isZero, isInf, decide_eq_true_eq, decide_eq_false_iff_not] at *
  omega

theorem pack_bne_inf (s t : Bool) :
    pack (s != t) 0x7F800000 = if s = t then 0x7F800000#32 else 0xFF800000#32 := by
  cases s <;> cases t <;> rfl

theorem pack_bne_zero (s t : Bool) :
    pack (s != t) 0 = if s = t then 0x00000000#32 else 0x80000000#32 := by
  cases s <;> cases t <;> rfl

section
variable {a b : Word} (nan : Word)

/-- Infinities of equal signs add up; opposite ones cancel to a NaN. -/
theorem add_inf_inf (ha : isInf a = true) (hb : isInf b = true) :
    add nan a b = if sign a = sign b then a else nan := by
  by_cases hs : sign a = sign b <;> simp [add, isInf_not_isNaN, ha, hb, hs]

theorem add_inf_finite (ha : isInf a = true) (hb : isFinite b = true) : add nan a b = a := by
  simp [add, isInf_not_isNaN ha, isFinite_not_isNaN hb, ha, isFinite_not_isInf hb]

theorem add_finite_inf (ha : isFinite a = true) (hb : isInf b = true) : add nan a b = b := by
  simp [add, isFinite_not_isNaN ha, isInf_not_isNaN hb, isFinite_not_isInf ha, hb]

/-- An infinity times a zero, in either order. -/
theorem mul_inf_zero (h : isInf a = true ∧ isZero b = true ∨ isZero a = true ∧ isInf b = true) :
    mul nan a b = nan := by
  obtain ⟨hi, hz⟩ | ⟨hz, hi⟩ := h <;>
    simp [mul, isInf_not_isNaN hi, isFinite_not_isNaN (isZero_isFinite hz), hi, hz]

/-- An infinity times a number that is not a zero. -/
theorem mul_inf (ha : isNaN a = false) (hb : isNaN b = false)
    (hi : isInf a = true ∨ isInf b = true) (haz : isZero a = false) (hbz : isZero b = false) :
    mul nan a b = if sign a = sign b then 0x7F800000#32 else 0xFF800000#32 := by
  simp [mul, ha, hb, hi, haz, hbz, pack_bne_inf]

theorem div_inf_inf (ha : isInf a = true) (hb : isInf b = true) : div nan a b = nan := by
  simp [div, isInf_not_isNaN, ha, hb]

theorem div_inf_finite (ha : isInf a = true) (hb : isFinite b = true) :
    div nan a b = if sign a = sign b then 0x7F800000#32 else 0xFF800000#32 := by
  simp [div, isInf_not_isNaN ha, isFinite_not_isNaN hb, ha, isFinite_not_isInf hb, pack_bne_inf]

theorem div_finite_inf (ha : isFinite a = true) (hb : isInf b = true) :
    div nan a b = if sign a = sign b then 0x00000000#32 else 0x80000000#32 := by
  simp [div, isFinite_not_isNaN ha, isInf_not_isNaN hb, isFinite_not_isInf ha, hb, pack_bne_zero]

/-- A finite value over a zero. -/
theorem div_by_zero (ha : isFinite a = true) (hb : isZero b = true) :
    div nan a b = if isZero a = true then nan
      else if sign a = sign b then 0x7F800000#32 else 0xFF800000#32 := by
  have hb' := isZero_isFinite hb
  simp [div, isFinite_not_isNaN, isFinite_not_isInf, ha, hb', hb, pack_bne_inf]

/-- Minus an infinity flips its sign, so a difference of infinities of opposite signs is the first. -/
theorem sub_inf_inf (ha : isInf a = true) (hb : isInf b = true) :
    sub nan a b = if sign a = sign b then nan else a := by
  rw [sub, add_inf_inf nan ha ((isInf_neg b).trans hb), sign_neg]
  cases sign a <;> cases sign b <;> rfl

theorem sub_nan (h : isNaN a = true ∨ isNaN b = true) : sub nan a b = nan :=
  add_nan nan a (neg b) (by rwa [isNaN_neg])

end

end Sys2Proof.F32

namespace Sys2Proof

/-- Settles O38, one class of operands after another. -/
theorem specialOperandsFollowIeee : Obligations.SpecialOperandsFollowIeee := by
  intro nan a b signedInf signedZero
  refine ⟨?_, ?_, ?_, ?_, ?_, ?_, ?_⟩
  · intro ha haz hbz
    rw [F32.div_by_zero nan ha hbz, haz]
    rfl
  · intro haz hbz
    rw [F32.div_by_zero nan (F32.isZero_isFinite haz) hbz, if_pos haz]
  · exact fun haz hb => ⟨F32.mul_inf_zero nan (.inr ⟨haz, hb⟩), F32.mul_inf_zero nan (.inl ⟨hb, haz⟩)⟩
  · intro ha hb
    refine ⟨F32.div_inf_inf nan ha hb, ?_, fun hs => ?_, fun hs => ?_⟩
    · exact F32.mul_inf nan (F32.isInf_not_isNaN ha) (F32.isInf_not_isNaN hb) (.inl ha)
        (F32.isInf_not_isZero ha) (F32.isInf_not_isZero hb)
    · rw [F32.add_inf_inf nan ha hb, F32.sub_inf_inf nan ha hb, if_pos hs, if_pos hs]
      exact ⟨rfl, rfl⟩
    · rw [F32.add_inf_inf nan ha hb, F32.sub_inf_inf nan ha hb, if_neg hs, if_neg hs]
      exact ⟨rfl, rfl⟩
  · intro ha hb
    have haN := F32.isInf_not_isNaN ha
    have hbN := F32.isFinite_not_isNaN hb
    have haZ := F32.isInf_not_isZero ha
    refine ⟨F32.add_inf_finite nan ha hb, F32.add_finite_inf nan hb ha,
      F32.add_inf_finite nan ha ((F32.isFinite_neg b).trans hb),
      F32.add_finite_inf nan hb ((F32.isInf_neg a).trans ha), F32.div_inf_finite nan ha hb,
      fun hbz => ?_⟩
    refine ⟨F32.mul_inf nan haN hbN (.inl ha) haZ hbz, ?_⟩
    rw [F32.mul_inf nan hbN haN (.inr ha) hbz haZ]
    simp only [eq_comm, signedInf]
  · exact fun ha hb => F32.div_finite_inf nan ha hb
  · exact fun h => ⟨F32.add_nan nan a b h, F32.sub_nan nan h, F32.mul_nan nan a b h,
      F32.div_nan nan a b h⟩

end Sys2Proof
end

section
/-! PROOFS. The layout of a pattern, negation and comparison (spec/00_scope.md R8, R10, R12). -/

namespace Sys2Proof.F32

theorem sign_eq_getLsbD (v : Word) : sign v = v.getLsbD 31 := rfl

/-- A magnitude is the exponent field above the fraction. -/
theorem mag_eq_fields (v : Word) :
    mag v = (v.extractLsb' 23 8).toNat * 2 ^ 23 + (v.extractLsb' 0 23).toNat := by
  have h : v.toNat < 2 ^ 32 := v.isLt
  simp only [BitVec.extractLsb'_toNat, Nat.shiftRight_eq_div_pow, mag]
  omega

theorem isNaN_iff_fields (v : Word) :
    isNaN v = true ↔ v.extractLsb' 23 8 = 0xFF#8 ∧ v.extractLsb' 0 23 ≠ 0#23 := by
  have he := (v.extractLsb' 23 8).isLt
  have hf := (v.extractLsb' 0 23).isLt
  rw [isNaN, decide_eq_true_iff, mag_eq_fields, ne_eq, ← BitVec.toNat_inj, ← BitVec.toNat_inj,
    BitVec.toNat_ofNat, BitVec.toNat_ofNat]
  omega

theorem isFinite_iff_fields (v : Word) : isFinite v = true ↔ v.extractLsb' 23 8 ≠ 0xFF#8 := by
  have he := (v.extractLsb' 23 8).isLt
  have hf := (v.extractLsb' 0 23).isLt
  rw [isFinite, decide_eq_true_iff, mag_eq_fields, ne_eq, ← BitVec.toNat_inj, BitVec.toNat_ofNat]
  omega

/-- The magnitude of a pattern by its exponent field `e` and its fraction `f`. -/
theorem magUnits_fields {e f : Nat} (hf : f < 2 ^ 23) :
    magUnits (e * 2 ^ 23 + f) = if e = 0 then f else (2 ^ 23 + f) * 2 ^ (e - 1) := by
  rw [magUnits, show (e * 2 ^ 23 + f) / 2 ^ 23 = e by omega,
    show (e * 2 ^ 23 + f) % 2 ^ 23 = f by omega]

theorem units_fields (v : Word) :
    units v = (if v.getLsbD 31 then -1 else 1) *
      ((if (v.extractLsb' 23 8).toNat = 0 then (v.extractLsb' 0 23).toNat
        else (2 ^ 23 + (v.extractLsb' 0 23).toNat) * 2 ^ ((v.extractLsb' 23 8).toNat - 1) : Nat) : Int) := by
  rw [units_eq, mag_eq_fields, magUnits_fields (v.extractLsb' 0 23).isLt, sign_eq_getLsbD]
  split
  · rw [neg_one_mul]
  · rw [one_mul]

/-- Every finite magnitude is below the infinity's. -/
theorem magUnits_lt_inf {v : Word} (h : isFinite v = true) :
    magUnits (mag v) < magUnits 0x7F800000 :=
  magUnits_strictMono (by simpa [isFinite] using h)

theorem finite_between_infs {v : Word} (h : isFinite v = true) :
    lt v 0x7F800000#32 = true ∧ lt 0xFF800000#32 v = true := by
  have hlt := magUnits_lt_inf h
  have hpos : units 0x7F800000#32 = (magUnits 0x7F800000 : Int) := rfl
  have hneg : units 0xFF800000#32 = -(magUnits 0x7F800000 : Int) := rfl
  have hv := natAbs_units v
  simp only [lt, isFinite_not_isNaN h, hpos, hneg, show isNaN 0x7F800000#32 = false from rfl,
    show isNaN 0xFF800000#32 = false from rfl, Bool.not_false, Bool.true_and, decide_eq_true_iff]
  omega

section
variable {a b : Word} (ha : isNaN a = false) (hb : isNaN b = false)
include ha hb

theorem lt_iff : lt a b = true ↔ units a < units b := by simp [lt, ha, hb]
theorem le_iff : le a b = true ↔ units a ≤ units b := by simp [le, ha, hb]
theorem gt_iff : gt a b = true ↔ units b < units a := by simp [gt, lt, ha, hb]
theorem ge_iff : ge a b = true ↔ units b ≤ units a := by simp [ge, le, ha, hb]
theorem eq_iff : eq a b = true ↔ units a = units b := by simp [eq, ha, hb]

end

theorem eq_nan {a b : Word} (h : isNaN a = true ∨ isNaN b = true) : eq a b = false := by
  rcases h with h | h <;> simp [eq, h]

/-- Negation flips bit 31 and no other. -/
theorem getLsbD_neg (v : Word) {i : Nat} (hi : i < 32) :
    (neg v).getLsbD i = (v.getLsbD i ^^ decide (i = 31)) := by
  rw [neg, BitVec.getLsbD_xor]
  congr 1
  interval_cases i <;> rfl

end Sys2Proof.F32

namespace Sys2Proof

/-- Settles O39: bits of `neg`, classes by the fields, comparisons by the values. -/
theorem negationAndComparison : Obligations.NegationAndComparison := by
  refine ⟨fun v => ⟨?_, fun i hi => ?_⟩, fun v => ?_, fun a b ha hb => ?_, fun a b h => ?_,
    by decide +kernel⟩
  · rw [F32.getLsbD_neg v (by omega), decide_eq_true rfl, Bool.xor_true]
  · simp [F32.getLsbD_neg v (show i < 32 by omega), hi.ne]
  · exact ⟨F32.isNaN_iff_fields v, F32.isFinite_iff_fields v,
      fun h => ⟨F32.units_fields v, F32.finite_between_infs h⟩⟩
  · exact ⟨F32.lt_iff ha hb, F32.le_iff ha hb, F32.gt_iff ha hb, F32.ge_iff ha hb, F32.eq_iff ha hb⟩
  · exact ⟨F32.lt_nan a b h, F32.le_nan a b h, F32.lt_nan b a h.symm, F32.le_nan b a h.symm,
      F32.eq_nan h⟩

end Sys2Proof
end

section
/-! PROOFS. The helper functions (spec/00_scope.md R13): their results are on the grid, so rounding keeps
them. -/

namespace Sys2Proof.F32

/-! ### Values that rounding keeps -/

/-- `n` units are the magnitude of a finite pattern. -/
def Representable (n : Nat) : Prop := ∃ m < 0x7F800000, magUnits m = n

theorem round_representable (s : Bool) {n : Nat} (h : Representable n) :
    isFinite (round s n 1) = true ∧ magUnits (mag (round s n 1)) = n := by
  obtain ⟨m, hm, rfl⟩ := h
  rw [isFinite, mag_round, roundMag_magUnits hm.le]
  exact ⟨decide_eq_true hm, rfl⟩

/-- The integers up to 2^24 are on the grid. -/
theorem representable_mul_unit1 {n : Nat} (hn : n ≤ 2 ^ 24) : Representable (n * unit1) := by
  obtain ⟨m, hm⟩ := exists_magUnits_eq 149 hn
  refine ⟨m, magUnits_strictMono.lt_iff_lt.mp ?_, hm⟩
  calc magUnits m = n * 2 ^ 149 := hm
    _ ≤ 2 ^ 24 * 2 ^ 149 := Nat.mul_le_mul_right _ hn
    _ < 2 ^ 24 * 2 ^ 253 :=
      Nat.mul_lt_mul_of_pos_left (Nat.pow_lt_pow_right (by omega) (by omega)) (by omega)
    _ = magUnits 0x7F800000 := magUnits_inf.symm

/-- A magnitude is below 2^23 or an integer. -/
theorem magUnits_small_or_integer (m : Nat) : magUnits m < 2 ^ 23 * unit1 ∨ unit1 ∣ magUnits m := by
  by_cases h : (149 + 1) * 2 ^ 23 ≤ m
  · exact .inr (two_pow_dvd_magUnits h)
  · left
    rw [unit1, ← magUnits_binade (by omega) (.inr le_rfl)]
    exact magUnits_strictMono (by omega)

/-- An integer at most one above a finite magnitude, and equal to it where that is an integer, is on
the grid. -/
theorem representable_of_rounds_integer {v : Word} (hv : isFinite v = true) {n : Nat}
    (hle : n * unit1 ≤ magUnits (mag v) + unit1)
    (hint : unit1 ∣ magUnits (mag v) → n * unit1 = magUnits (mag v)) : Representable (n * unit1) := by
  obtain hsmall | hdvd := magUnits_small_or_integer (mag v)
  · apply representable_mul_unit1
    have hlt : n * unit1 < (2 ^ 23 + 1) * unit1 := by rw [Nat.succ_mul]; omega
    have := Nat.lt_of_mul_lt_mul_right hlt
    omega
  · rw [hint hdvd]
    exact ⟨mag v, by simpa [isFinite] using hv, rfl⟩

theorem unit1_pos : 0 < unit1 := Nat.two_pow_pos 149

theorem unit1_cast : (unit1 : Int) = 2 ^ 149 := by rw [unit1]; norm_cast

/-! ### `floor32`, `rha`, `toInt`, `ofNat` -/

/-- The integer `floor32` answers. -/
def floorInt (v : Word) : Int := units v / (unit1 : Int)

theorem floorInt_le (v : Word) : floorInt v * unit1 ≤ units v :=
  Int.ediv_mul_le _ (by exact_mod_cast unit1_pos.ne')

theorem lt_floorInt_add_one (v : Word) : units v < (floorInt v + 1) * unit1 :=
  Int.lt_ediv_add_one_mul_self _ (by exact_mod_cast unit1_pos)

theorem representable_floorInt {v : Word} (hv : isFinite v = true) :
    Representable (floorInt v * unit1).natAbs := by
  have hle := floorInt_le v
  have hlt := lt_floorInt_add_one v
  have habs := natAbs_units v
  rw [add_mul, one_mul] at hlt
  have hnat : (floorInt v * unit1).natAbs = (floorInt v).natAbs * unit1 := by
    rw [Int.natAbs_mul, Int.natAbs_natCast]
  rw [hnat]
  refine representable_of_rounds_integer hv (by omega) fun hdvd => ?_
  have hdvd' : (unit1 : Int) ∣ units v := by rwa [Int.natCast_dvd, natAbs_units]
  rw [← hnat, floorInt, Int.ediv_mul_cancel hdvd', natAbs_units]

/-- The floor is not above zero for a set sign, and not below for a clear one. -/
theorem floorInt_sign (v : Word) :
    (if sign v then floorInt v * unit1 ≤ 0 else 0 ≤ floorInt v * unit1) := by
  have hle := floorInt_le v
  have hv := units_eq v
  split at hv
  case isTrue hs => rw [if_pos hs]; omega
  case isFalse hs =>
    rw [if_neg hs]
    exact mul_nonneg (Int.ediv_nonneg (by omega) (by omega)) (by omega)

/-- `floor32` of a finite value is finite and worth the floor. -/
theorem floor32_finite {v : Word} (hv : isFinite v = true) :
    isFinite (floor32 v) = true ∧ units (floor32 v) = floorInt v * unit1 := by
  by_cases hz : isZero v = true
  · have hunits := units_eq_zero_iff.mpr hz
    simp [floor32, hz, hv, hunits, floorInt]
  · obtain ⟨hfin, hmag⟩ := round_representable (sign v) (representable_floorInt hv)
    have hfloor : floor32 v = round (sign v) (floorInt v * unit1).natAbs 1 := by
      simp [floor32, hv, hz, floorInt]
    rw [hfloor, units_eq, sign_round, hmag]
    refine ⟨hfin, ?_⟩
    have hsign := floorInt_sign v
    generalize floorInt v * (unit1 : Int) = f at *
    split at hsign
    case isTrue hs => rw [if_pos hs]; omega
    case isFalse hs => rw [if_neg hs]; omega

/-- The magnitude of the integer `rha` answers. -/
def rhaNat (v : Word) : Nat := (2 * magUnits (mag v) + unit1) / (2 * unit1)

theorem rhaNat_le (v : Word) : 2 * rhaNat v * unit1 ≤ 2 * magUnits (mag v) + unit1 := by
  have := Nat.div_mul_le_self (2 * magUnits (mag v) + unit1) (2 * unit1)
  calc 2 * rhaNat v * unit1 = rhaNat v * (2 * unit1) := by ring
    _ ≤ _ := this

theorem lt_rhaNat_add_one (v : Word) :
    2 * magUnits (mag v) + unit1 < 2 * (rhaNat v + 1) * unit1 := by
  have := Nat.lt_div_mul_add (a := 2 * magUnits (mag v) + unit1) (b := 2 * unit1)
    (Nat.mul_pos two_pos unit1_pos)
  calc _ < rhaNat v * (2 * unit1) + 2 * unit1 := this
    _ = 2 * (rhaNat v + 1) * unit1 := by ring

/-- An integer is its own nearest integer. -/
theorem rhaNat_of_integer {v : Word} (h : unit1 ∣ magUnits (mag v)) :
    rhaNat v * unit1 = magUnits (mag v) := by
  obtain ⟨k, hk⟩ := h
  have hlow := rhaNat_le v
  have hhigh := lt_rhaNat_add_one v
  rw [hk] at hlow hhigh ⊢
  have h1 : 2 * rhaNat v * unit1 ≤ (2 * k + 1) * unit1 := by linarith
  have h2 : (2 * k + 1) * unit1 < 2 * (rhaNat v + 1) * unit1 := by linarith
  have h1' := Nat.le_of_mul_le_mul_right h1 unit1_pos
  have h2' := Nat.lt_of_mul_lt_mul_right h2
  rw [show rhaNat v = k by omega, mul_comm]

/-- `rha` of a finite value is finite, with its sign and the rounded magnitude. -/
theorem rha_finite {v : Word} (hv : isFinite v = true) :
    isFinite (rha v) = true ∧ sign (rha v) = sign v ∧ magUnits (mag (rha v)) = rhaNat v * unit1 := by
  have hrha : rha v = round (sign v) (rhaNat v * unit1) 1 := by simp [rha, hv, rhaNat]
  have hle := rhaNat_le v
  rw [mul_assoc] at hle
  obtain ⟨hfin, hmag⟩ := round_representable (sign v)
    (representable_of_rounds_integer hv (n := rhaNat v) (by omega) rhaNat_of_integer)
  rw [hrha]
  exact ⟨hfin, sign_round _ _ _, hmag⟩

theorem toInt_of_units {v : Word} {n : Int} (h : units v = n * 2 ^ 149) : toInt v = n := by
  rw [toInt, h, unit1_cast]
  exact Int.mul_ediv_cancel n (by positivity)

/-- The integers up to 2^24 convert exactly. -/
theorem ofNat_exact {n : Nat} (hn : n ≤ 2 ^ 24) : isFinite (ofNat n) = true ∧
    sign (ofNat n) = false ∧ units (ofNat n) = n * 2 ^ 149 := by
  obtain ⟨hfin, hmag⟩ := round_representable false (representable_mul_unit1 hn)
  refine ⟨hfin, sign_round _ _ _, ?_⟩
  rw [units_eq, ofNat, hmag, sign_round, if_neg (by decide), ← unit1_cast]
  push_cast
  rfl

theorem minNum_of_numbers {a b : Word} (ha : isNaN a = false) (hb : isNaN b = false) :
    minNum a b = if units a < units b then a else b := by
  simp [minNum, ha, hb, lt_iff ha hb]

end Sys2Proof.F32

namespace Sys2Proof

/-- Settles O40, one function after another. -/
theorem helperFunctionsFollowRule : Obligations.HelperFunctionsFollowRule := by
  refine ⟨fun v hv => ⟨?_, ?_, ?_⟩, fun v => ⟨fun hv => ?_, fun hz => ?_⟩, fun a b => ⟨?_, ?_, ?_⟩,
    fun n hn => F32.ofNat_exact hn⟩
  · obtain ⟨hfin, hunits⟩ := F32.floor32_finite hv
    rw [← F32.unit1_cast]
    exact ⟨hfin, F32.floorInt v, hunits, F32.floorInt_le v, F32.lt_floorInt_add_one v⟩
  · obtain ⟨hfin, hsign, hmag⟩ := F32.rha_finite hv
    exact ⟨hfin, hsign, F32.rhaNat v, hmag, F32.rhaNat_le v, F32.lt_rhaNat_add_one v⟩
  · exact fun n hn => F32.toInt_of_units hn
  · simp [F32.floor32, F32.rha, hv]
  · simp [F32.floor32, hz]
  · exact fun ha => by simp [F32.minNum, ha]
  · exact fun ha hb => by simp [F32.minNum, ha, hb]
  · exact fun ha hb => F32.minNum_of_numbers ha hb

end Sys2Proof
end

section
/-! PROOFS. The transcendental functions of a configuration (spec/00_scope.md R15, R7). -/

namespace Sys2Proof

/-- A quieted pattern is a NaN. -/
theorem F32.isNaN_quiet (w : Word) : F32.isNaN (F32.quiet w) = true := by
  rw [F32.isNaN, F32.mag_eq_toNat_setWidth, F32.quiet, BitVec.setWidth_or, BitVec.toNat_or,
    decide_eq_true_iff]
  exact lt_of_lt_of_le (by decide +kernel) Nat.right_le_or

/-! ### What R15 fixes of `exp2_32` -/

theorem exp2Fixed_of_nan {v : Word} (h : F32.isNaN v = true) (y : Word) :
    exp2Fixed v y = F32.quiet y := by
  simp [exp2Fixed, h]

/-- 128.0 in units. -/
theorem units_128 : F32.units 0x43000000#32 = 128 * 2 ^ 149 := by decide +kernel

/-- Below 128 a finite argument overflows nowhere. -/
theorem exp2Fixed_of_lt_128 {v : Word} (hv : F32.isFinite v = true)
    (h : F32.units v < 128 * 2 ^ 149) (y : Word) :
    exp2Fixed v y =
      if exp2Exact v then F32.pack false ((F32.toInt v + 127).toNat * 2 ^ 23) else y := by
  have hle : F32.le 0x43000000#32 v = false := by
    rw [Bool.eq_false_iff, ne_eq, F32.le_iff (by decide) (F32.isFinite_not_isNaN hv), units_128]
    exact not_le.mpr h
  simp [exp2Fixed, F32.isFinite_not_isNaN hv, F32.isFinite_not_isInf hv, hle]

/-- Where `exp2_32` is exact in every configuration. -/
theorem exp2Exact_iff {v : Word} (hv : F32.isFinite v = true) :
    exp2Exact v = true ↔ ∃ n : Int, -126 ≤ n ∧ n ≤ 127 ∧ F32.units v = n * 2 ^ 149 := by
  simp only [exp2Exact, hv, Bool.true_and, Bool.and_eq_true, decide_eq_true_iff, F32.unit1_cast]
  constructor
  · rintro ⟨⟨hdvd, hlow⟩, hhigh⟩
    refine ⟨F32.toInt v, hlow, hhigh, ?_⟩
    rw [F32.toInt, F32.unit1_cast, Int.ediv_mul_cancel (Int.dvd_of_emod_eq_zero hdvd)]
  · rintro ⟨n, hlow, hhigh, hunits⟩
    rw [F32.toInt_of_units hunits, hunits]
    exact ⟨⟨Int.mul_emod_left n _, hlow⟩, hhigh⟩

/-- The pattern of a normal power of two. -/
theorem units_pack_power {n : Int} (hlow : -126 ≤ n) (hhigh : n ≤ 127) :
    F32.units (F32.pack false ((n + 127).toNat * 2 ^ 23)) = 2 ^ (n + 149).toNat := by
  have hm : (n + 127).toNat * 2 ^ 23 < 2 ^ 31 := by omega
  have hsplit : (n + 127).toNat * 2 ^ 23 = (n + 126).toNat * 2 ^ 23 + 2 ^ 23 := by omega
  rw [F32.units_eq, F32.sign_pack _ _ hm, F32.mag_pack _ _ hm, hsplit,
    F32.magUnits_binade (by omega) (.inr le_rfl), ← pow_add,
    show 23 + (n + 126).toNat = (n + 149).toNat by omega]
  push_cast
  rfl

theorem exp2_32_integer (c : Config) {v : Word} (hv : F32.isFinite v = true) {n : Int}
    (hunits : F32.units v = n * 2 ^ 149) (hlow : -126 ≤ n) (hhigh : n ≤ 127) :
    F32.units (exp2_32 c v) = 2 ^ (n + 149).toNat := by
  have hlt : F32.units v < 128 * 2 ^ 149 := by
    rw [hunits]
    exact mul_lt_mul_of_pos_right (by omega) (by positivity)
  rw [exp2_32, exp2Fixed_of_lt_128 hv hlt, if_pos ((exp2Exact_iff hv).mpr ⟨n, hlow, hhigh, hunits⟩),
    F32.toInt_of_units hunits, units_pack_power hlow hhigh]

/-! ### A parameter for each function (R7) -/

/-- The reference functions take only NAN_RESULT from the configuration. -/
theorem references_congr {c c' : Config} (h : c.nanResult = c'.nanResult) :
    Transcend.tanReference c = Transcend.tanReference c' ∧
    Transcend.sinReference c = Transcend.sinReference c' ∧
    Transcend.exp2Reference c = Transcend.exp2Reference c' := by
  refine ⟨funext fun v => ?_, funext fun v => ?_, funext fun v => ?_⟩
  · rw [Transcend.tanReference, Transcend.tanReference, h]
  · rw [Transcend.sinReference, Transcend.sinReference, h]
  · rw [Transcend.exp2Reference, Transcend.exp2Reference, h]

/-- Settles O41, each clause from what R15 fixes around the value of the parameter. -/
theorem transcendentalsFollowConfiguration : Obligations.TranscendentalsFollowConfiguration := by
  intro c c' v
  refine ⟨trigFixed_zero _, trigFixed_zero _, rfl, rfl, fun hN => ?_, fun hI => ?_,
    fun n hv hu hl hh => ?_, fun hnan => ?_, fun points y hv hlist => ?_⟩
  · have hv := F32.isNaN_not_isFinite hN
    rw [tan32, sin32, exp2_32, trigFixed_of_not_finite hv, trigFixed_of_not_finite hv,
      exp2Fixed_of_nan hN]
    exact ⟨F32.isNaN_quiet _, F32.isNaN_quiet _, F32.isNaN_quiet _⟩
  · have hv := F32.isInf_not_isFinite hI
    rw [tan32, sin32, trigFixed_of_not_finite hv, trigFixed_of_not_finite hv]
    exact ⟨F32.isNaN_quiet _, F32.isNaN_quiet _⟩
  · exact exp2_32_integer c hv hu hl hh
  · obtain ⟨htan, hsin, hexp⟩ := references_congr hnan
    refine ⟨fun h => ?_, fun h => ?_, fun h => ?_⟩
    · rw [tan32, tan32, htan, h]
    · rw [sin32, sin32, hsin, h]
    · rw [exp2_32, exp2_32, hexp, h]
  · refine ⟨fun h hz => ?_, fun h hz => ?_, fun h hlt hint => ?_⟩
    · rw [tan32, trigFixed_of_finite hv hz, h, FnUnit.value_given_listed hlist]
    · rw [sin32, trigFixed_of_finite hv hz, h, FnUnit.value_given_listed hlist]
    · have hexact : exp2Exact v ≠ true := fun he => by
        obtain ⟨n, hlow, hhigh, hunits⟩ := (exp2Exact_iff hv).mp he
        exact hint n hlow hhigh hunits
      rw [exp2_32, exp2Fixed_of_lt_128 hv hlt, if_neg hexact, h, FnUnit.value_given_listed hlist]

end Sys2Proof
end

section
/-! PROOFS. Every command's word decodes to that command (spec/30_encoding.md R92, R93), so the word an
out-of-range command records is one the block rejects (spec/60_exceptions.md R202). -/

namespace Sys2Proof

@[simp] theorem modeField_formatR (op : BitVec 6) (rd rs1 rs2 rs3 : Reg) (u : UnitIx)
    (imm6 : BitVec 6) : modeField (formatR op rd rs1 rs2 rs3 u imm6) = imm6.setWidth 2 := by
  apply BitVec.eq_of_getLsbD_eq
  intro i hi
  rw [modeField, BitVec.getLsbD_extractLsb', formatR_getLsbD]
  interval_cases i <;> simp

/-- Every command's word carries its row of the opcode map. -/
theorem rowMatches (i : Instr) : Laws.RowMatches.Statement i := by
  cases i with
  | nop => exact Laws.RowMatches.nop
  | luih rd imm16 => exact Laws.RowMatches.luih rd imm16
  | orlo rd imm16 => exact Laws.RowMatches.orlo rd imm16
  | mov rd rs1 => exact Laws.RowMatches.mov rd rs1
  | svfcfg u mode rs1 rs2 rs3 => exact Laws.RowMatches.svfcfg u mode rs1 rs2 rs3
  | svfproc rd u rs1 => exact Laws.RowMatches.svfproc rd u rs1
  | pseed u rs1 => exact Laws.RowMatches.pseed u rs1
  | pnext rd u => exact Laws.RowMatches.pnext rd u
  | white rd u => exact Laws.RowMatches.white rd u
  | oscpitch u rs1 => exact Laws.RowMatches.oscpitch u rs1
  | oscstep u rs1 => exact Laws.RowMatches.oscstep u rs1
  | oscrst u rs1 => exact Laws.RowMatches.oscrst u rs1
  | oscsaw rd u => exact Laws.RowMatches.oscsaw rd u
  | oscmode u mode => exact Laws.RowMatches.oscmode u mode
  | bankmix rd b rs1 rs2 => exact Laws.RowMatches.bankmix rd b rs1 rs2
  | dcfg u rs1 => exact Laws.RowMatches.dcfg u rs1
  | dsetf u rs1 => exact Laws.RowMatches.dsetf u rs1
  | dsetd u rs1 => exact Laws.RowMatches.dsetd u rs1
  | dtick rd u rs1 rs2 => exact Laws.RowMatches.dtick rd u rs1 rs2
  | rescale rd rs1 rs2 rs3 => exact Laws.RowMatches.rescale rd rs1 rs2 rs3
  | resolve rd rs1 rs2 rs3 => exact Laws.RowMatches.resolve rd rs1 rs2 rs3
  | xfade rd rs1 rs2 rs3 => exact Laws.RowMatches.xfade rd rs1 rs2 rs3

theorem checkReserved_of_match {w mask pattern : Word} (h : w &&& mask = pattern) (rest : Decoded) :
    checkReserved w mask pattern rest = rest := if_pos h

theorem decodeSvfcfg_encode (u : UnitIx) (mode : FilterMode) (rs1 rs2 rs3 : Reg) :
    decodeSvfcfg (encode (.svfcfg u mode rs1 rs2 rs3)) = .ok (.svfcfg u mode rs1 rs2 rs3) := by
  cases mode <;> simp [decodeSvfcfg, encode, FilterMode.code]

/-- The opcode of an encoded command selects its row, whose reserved bits are right, and the fields
read back are the operands. -/
theorem decode_encode (i : Instr) : decode (encode i) = .ok i := by
  obtain ⟨-, hop, hmask⟩ := rowMatches i
  rw [decode, hop]
  cases i with
  | svfcfg u mode rs1 rs2 rs3 =>
    exact (checkReserved_of_match hmask _).trans (decodeSvfcfg_encode u mode rs1 rs2 rs3)
  | _ => exact (checkReserved_of_match hmask _).trans (by simp [encode])

/-- The word of a command with a unit out of range is one the block rejects with UNIT_RANGE. -/
theorem rejection_encode {c : Config} {i : Instr} (h : unitInRange c i = false) :
    rejection c (encode i) = some .unitRange := by
  simp [rejection, decode_encode, h]

/-- A word the decoder rejects is rejected in every configuration with that cause. -/
theorem rejection_illegal (c : Config) {w : Word} {cause : Cause} (h : decode w = .illegal cause) :
    rejection c w = some cause := by
  simp [rejection, h]

end Sys2Proof
end

section
/-! PROOFS. What a command can change (spec/10_state.md R20, R33 to R43): each way a unit's state is
written, and the one inversion of `exec` from which the frames and the invariants follow. -/

namespace Sys2Proof.Machine

/-- The ways a command changes a pink-noise unit (41_pink_noise.md R123 to R125). -/
inductive PinkChange (c : Config) (p : PinkUnit) : PinkUnit → Prop where
  | seed (seed : Word) : PinkChange c p (seedPink c p seed)
  | advance : PinkChange c p (pinkAdvance c p)
  | draw : PinkChange c p { p with rng := xorshift32 p.rng }

/-- The ways a command changes an oscillator (42_oscillator_bank.md R140 to R145). -/
inductive OscChange (c : Config) (p : OscUnit) : OscUnit → Prop where
  | pitch (freq : Word) : OscChange c p { p with freq := freq }
  | step {dt ph : Word} (h : phaseAfter c p dt = some ph) : OscChange c p { p with phase := ph }
  | trigger (v : Word) : OscChange c p (oscTrigger c p v)
  | mode (offset invert : Bool) : OscChange c p { p with offset := offset, invert := invert }

/-- The ways a command changes a delay unit (43_chorus_delay.md R160 to R163). -/
inductive DelayChange (c : Config) (d : DelayUnit) : DelayUnit → Prop where
  | configure (base : Word) : DelayChange c d (delayConfigure d base)
  | setFreq (freq : Word) : DelayChange c d { d with lfoFreq := freq }
  | setDepth (depth : Word) : DelayChange c d { d with depth := depth }
  | tick (x fs : Word) : DelayChange c d (delayAdvance c (memWrite c d d.w x) fs)

/-- `m` is `s` with the unit that `i` writes changed as a command changes such a unit; a ring that `i`
does not store to is kept. -/
inductive UnitChange (i : Instr) (s : State) : State → Prop where
  | none (ht : i.target = none) : UnitChange i s s
  | svf {k : UnitIx} (x : SvfUnit) (ht : i.target = some (.svf k)) : UnitChange i s (s.setSvf k x)
  | pink {k : UnitIx} {p : PinkUnit} (ht : i.target = some (.pink k))
      (h : PinkChange s.cfg (s.pinkAt k) p) : UnitChange i s (s.setPink k p)
  | osc {j : UnitIx} {p : OscUnit} (ht : i.target = some (.osc j))
      (h : OscChange s.cfg (s.oscAt j) p) : UnitChange i s (s.setOsc j p)
  | dly {k : UnitIx} {d : DelayUnit} (ht : i.target = some (.dly k))
      (h : DelayChange s.cfg (s.dlyAt k) d)
      (hbuf : i.storesTo ≠ some k → d.buf = (s.dlyAt k).buf) : UnitChange i s (s.setDly k d)

/-- `t` is `m` with a word in the destination of `i`, where it has one. -/
inductive DestWrite (i : Instr) (m : State) : State → Prop where
  | none (hd : i.dest = none) : DestWrite i m m
  | reg {rd : Reg} (v : Word) (hd : i.dest = some rd) : DestWrite i m (m.writeReg rd v)

/-- The effect of a command that is not rejected: on its unit, then on its destination. -/
def Effect (i : Instr) (s t : State) : Prop := ∃ m, UnitChange i s m ∧ DestWrite i m t

/-- The next states of a command: its effect, or the rejection of a unit out of range. -/
inductive Runs (i : Instr) (s : State) : State → Prop where
  | effect {m t : State} (hr : unitInRange s.cfg i = true) (hu : UnitChange i s m)
      (hd : DestWrite i m t) : Runs i s t
  | rejected (hr : unitInRange s.cfg i = false) : Runs i s (raiseIllegal .unitRange (encode i) s)

section
variable {i : Instr} {s m t t' : State}

theorem runs_of_noUnit (hr : unitInRange s.cfg i = true) (hu : UnitChange i s m)
    (hd : DestWrite i m t') (h : (.next t' : Result) = .next t) : Runs i s t := by
  injection h with h
  exact h ▸ .effect hr hu hd

theorem runs_of_withUnit (hu : UnitChange i s m) (hd : DestWrite i m t')
    (h : withUnit i s (.next t') = .next t) : Runs i s t := by
  obtain ⟨hr, h⟩ | ⟨hr, rfl⟩ := withUnit_next h
  · exact runs_of_noUnit hr hu hd h
  · exact .rejected hr

/-- OSCSTEP gives a next state only where its loop ends (R141). -/
theorem runs_of_execOscstep {u : UnitIx} {rs1 : Reg} (h : execOscstep u rs1 s = .next t) :
    Runs (.oscstep u rs1) s t := by
  obtain ⟨hr, h⟩ | ⟨hr, rfl⟩ := withUnit_next h
  · split at h
    · next ph hph => exact runs_of_noUnit hr (.osc rfl (.step hph)) (.none rfl) h
    · cases h
  · exact .rejected hr

/-- Every next state `exec` gives is one of these. -/
theorem runs_of_exec (h : exec i s = .next t) : Runs i s t := by
  cases i with
  | nop => exact runs_of_noUnit rfl (.none rfl) (.none rfl) h
  | luih rd imm16 => exact runs_of_noUnit rfl (.none rfl) (.reg _ rfl) h
  | orlo rd imm16 => exact runs_of_noUnit rfl (.none rfl) (.reg _ rfl) h
  | mov rd rs1 => exact runs_of_noUnit rfl (.none rfl) (.reg _ rfl) h
  | svfcfg u mode rs1 rs2 rs3 => exact runs_of_withUnit (.svf _ rfl) (.none rfl) h
  | svfproc rd u rs1 => exact runs_of_withUnit (.svf _ rfl) (.reg _ rfl) h
  | pseed u rs1 => exact runs_of_withUnit (.pink rfl (.seed _)) (.none rfl) h
  | pnext rd u => exact runs_of_withUnit (.pink rfl .advance) (.reg _ rfl) h
  | white rd u => exact runs_of_withUnit (.pink rfl .draw) (.reg _ rfl) h
  | oscpitch u rs1 => exact runs_of_withUnit (.osc rfl (.pitch _)) (.none rfl) h
  | oscstep u rs1 => exact runs_of_execOscstep h
  | oscrst u rs1 => exact runs_of_withUnit (.osc rfl (.trigger _)) (.none rfl) h
  | oscsaw rd u => exact runs_of_withUnit (.none rfl) (.reg _ rfl) h
  | oscmode u mode => exact runs_of_withUnit (.osc rfl (.mode _ _)) (.none rfl) h
  | bankmix rd b rs1 rs2 => exact runs_of_withUnit (.none rfl) (.reg _ rfl) h
  | dcfg u rs1 =>
    exact runs_of_withUnit (.dly rfl (.configure _) fun hk => absurd rfl hk) (.none rfl) h
  | dsetf u rs1 =>
    exact runs_of_withUnit (.dly rfl (.setFreq (s.readReg rs1)) fun _ => rfl) (.none rfl) h
  | dsetd u rs1 =>
    exact runs_of_withUnit (.dly rfl (.setDepth (s.readReg rs1)) fun _ => rfl) (.none rfl) h
  | dtick rd u rs1 rs2 =>
    exact runs_of_withUnit (.dly rfl (.tick _ _) fun hk => absurd rfl hk) (.reg _ rfl) h
  | rescale rd rs1 rs2 rs3 => exact runs_of_noUnit rfl (.none rfl) (.reg _ rfl) h
  | resolve rd rs1 rs2 rs3 => exact runs_of_noUnit rfl (.none rfl) (.reg _ rfl) h
  | xfade rd rs1 rs2 rs3 => exact runs_of_noUnit rfl (.none rfl) (.reg _ rfl) h

end

/-! ### What a change leaves as it was (R43) -/

section
variable {i : Instr} {s m t : State}

/-- A unit's change reaches no register, no parameter, nothing of the host's and not the error record. -/
theorem UnitChange.frame (h : UnitChange i s m) :
    m.regs = s.regs ∧ (m.cfg = s.cfg ∧ m.port = s.port ∧ m.reply = s.reply) ∧
      m.err = s.err ∧ m.cause = s.cause ∧ m.errCmd = s.errCmd := by
  cases h <;> exact ⟨rfl, ⟨rfl, rfl, rfl⟩, rfl, rfl, rfl⟩

theorem UnitChange.svfAt_eq (h : UnitChange i s m) {k : UnitIx} (hk : i.target ≠ some (.svf k)) :
    m.svfAt k = s.svfAt k := by
  cases h with
  | svf x ht => rw [svfAt_setSvf, if_neg]; rintro rfl; exact hk ht
  | _ => rfl

theorem UnitChange.pinkAt_eq (h : UnitChange i s m) {k : UnitIx} (hk : i.target ≠ some (.pink k)) :
    m.pinkAt k = s.pinkAt k := by
  cases h with
  | pink ht => rw [pinkAt_setPink, if_neg]; rintro rfl; exact hk ht
  | _ => rfl

theorem UnitChange.oscAt_eq (h : UnitChange i s m) {j : UnitIx} (hj : i.target ≠ some (.osc j)) :
    m.oscAt j = s.oscAt j := by
  cases h with
  | osc ht => rw [oscAt_setOsc, if_neg]; rintro rfl; exact hj ht
  | _ => rfl

theorem UnitChange.dlyAt_eq (h : UnitChange i s m) {k : UnitIx} (hk : i.target ≠ some (.dly k)) :
    m.dlyAt k = s.dlyAt k := by
  cases h with
  | dly ht => rw [dlyAt_setDly, if_neg]; rintro rfl; exact hk ht
  | _ => rfl

/-- A ring the command does not store to is kept, in the unit it changes too. -/
theorem UnitChange.buf_eq (h : UnitChange i s m) {k : UnitIx} (hk : i.storesTo ≠ some k) :
    (m.dlyAt k).buf = (s.dlyAt k).buf := by
  cases h with
  | @dly k' d ht hd hbuf =>
    rw [dlyAt_setDly]
    split
    · next e => subst e; exact hbuf hk
    · rfl
  | _ => rfl

theorem DestWrite.readReg_eq (h : DestWrite i m t) {r : Reg} (hr : i.dest ≠ some r) :
    t.readReg r = m.readReg r := by
  cases h with
  | none => rfl
  | reg v hd => rw [readReg_writeReg, if_neg]; rintro rfl; exact hr hd

end

end Sys2Proof.Machine

namespace Sys2Proof

open Machine

/-- Settles O54: a rejection writes the error record alone, a unit's change and the write of `rd` reach
no other unit. -/
theorem commandWritesOnlyItsUnit : Obligations.CommandWritesOnlyItsUnit := by
  intro i s t h
  cases runs_of_exec h with
  | rejected => simp
  | effect _ hu hd =>
    obtain ⟨-, hhost, -⟩ := hu.frame
    have hring (k a) (hk : i.storesTo ≠ some k) := congrArg (Memory.readByte · a) (hu.buf_eq hk)
    cases hd <;>
      exact ⟨fun _ => hu.svfAt_eq, fun _ => hu.pinkAt_eq, fun _ => hu.oscAt_eq, fun _ => hu.dlyAt_eq,
        hring, hhost⟩

/-- Settles O55: only the write of `rd` reaches a register, only a rejection the error record. -/
theorem commandWritesOnlyItsRegister : Obligations.CommandWritesOnlyItsRegister := by
  intro i s t h
  rw [← unitInRange_eq_wellFormed]
  cases runs_of_exec h with
  | rejected hr => simp [hr]
  | effect hr hu hd =>
    obtain ⟨hregs, -, herr⟩ := hu.frame
    refine ⟨fun r hdest => ?_, fun hout => ?_, fun _ => ?_⟩
    · rw [hd.readReg_eq hdest, State.readReg, hregs, ← State.readReg]
    · rw [hr] at hout; cases hout
    · cases hd <;> exact herr

end Sys2Proof
end

section
/-! PROOFS. What a step can do, said once, and the induction over a step that every invariant uses
(spec/10_state.md R25 to R32, spec/60_exceptions.md R202, R207). -/

namespace Sys2Proof

open Machine

/-- Settles O52: `step` is `serve`, and a transaction is served on the state it left. -/
theorem stepServesOldestTransaction : Obligations.StepServesOldestTransaction :=
  fun _ => ⟨fun _ _ h => serve_pending h, fun _ _ _ h => serve_pending h, serve_idle⟩

/-- Settles O46: a write to CMD of a word that decodes is `exec` of its command. -/
theorem stepRunsDecodedCommand : Obligations.StepRunsDecodedCommand := fun _ _ _ _ hport hdecode =>
  (serve_pending hport).trans (command_ok hdecode _)

end Sys2Proof

namespace Sys2Proof.Machine

/-- What has to be shown of a property for every step to keep it: each thing a transaction does keeps
it. -/
structure KeptByEach (P : State → Prop) : Prop where
  port {s : State} (rest : List HostTxn) (r : Option Word) :
    P s → P { s with port := rest, reply := r }
  reg {s : State} (i : Reg) (v : Word) : P s → P (s.writeReg i v)
  clear {s : State} : P s → P (clearError s)
  reset {s : State} : P s → P (resetBlock s)
  raise {s : State} {cause : Cause} {w : Word} (h : rejection s.cfg w = some cause) :
    P s → P (raiseIllegal cause w s)
  unit {i : Instr} {s m : State} (h : UnitChange i s m) : P s → P m

section
variable {P : State → Prop} {s t : State}

theorem exec_keeps (hP : KeptByEach P) {i : Instr} (hs : P s) (h : exec i s = .next t) : P t := by
  cases runs_of_exec h with
  | rejected hr => exact hP.raise (rejection_encode hr) hs
  | effect _ hu hd =>
    have hm := hP.unit hu hs
    cases hd with
    | none => exact hm
    | reg v => exact hP.reg _ v hm

theorem command_keeps (hP : KeptByEach P) {w : Word} (hs : P s) (h : command w s = .next t) :
    P t := by
  cases hd : decode w with
  | ok i => exact exec_keeps hP hs ((command_ok hd s).symm.trans h)
  | illegal cause =>
    rw [command_illegal hd] at h
    cases h
    exact hP.raise (rejection_illegal s.cfg hd) hs

theorem hostWrite_keeps (hP : KeptByEach P) {a : BitVec 8} {d : Word} (hs : P s)
    (h : hostWrite a d s = .next t) : P t := by
  obtain ⟨-, e⟩ | ⟨-, -, e⟩ | ⟨-, e⟩ | ⟨-, -, e⟩ | e := hostWrite_cases a d s <;> rw [e] at h
  case inr.inr.inl => exact command_keeps hP hs h
  all_goals cases h
  · exact hP.reg _ d hs
  · exact hP.clear hs
  · exact hP.reset hs
  · exact hs

/-- A step keeps what each thing that a transaction does keeps. -/
theorem step_keeps (hP : KeptByEach P) (hs : P s) (h : step s = .next t) : P t := by
  obtain ⟨hread, hwrite, hidle⟩ := stepServesOldestTransaction s
  cases hp : s.port with
  | nil =>
    rw [hidle hp] at h
    cases h
    exact hs
  | cons txn rest =>
    cases txn with
    | read a =>
      rw [hread a rest hp] at h
      cases h
      exact hP.port rest _ hs
    | write a d =>
      rw [hwrite a d rest hp] at h
      exact hostWrite_keeps hP (hP.port rest none hs) h

end

/-! ### Properties of every unit of a kind -/

/-- Replacing one slot by one with a property keeps that all slots have it. -/
theorem forall_slot_setSlot {α : Type} {Q : α → Prop} {v : Vector α 16} {i : BitVec 4} {x : α}
    (hx : Q x) (hv : ∀ k, Q (slot v k)) (k : BitVec 4) : Q (slot (setSlot v i x) k) := by
  rw [slot_setSlot]
  split
  · exact hx
  · exact hv k

/-- A property of every pink unit is kept where every change of one and its reset keep it. -/
theorem keptByEach_pink {Q : Config → PinkUnit → Prop}
    (hQ : ∀ {c p p'}, PinkChange c p p' → Q c p → Q c p')
    (hreset : ∀ c k, Q c (PinkUnit.reset c k)) :
    KeptByEach fun s => ∀ k : UnitIx, Q s.cfg (s.pinkAt k) where
  port _ _ := id
  reg _ _ := id
  clear := id
  reset {s} _ k := (resetOf_pinkAt s.cfg k).symm ▸ hreset s.cfg k.toNat
  raise _ hs := by simpa using hs
  unit hu hs := by
    cases hu with
    | pink _ h => exact forall_slot_setSlot (hQ h (hs _)) hs
    | _ => exact hs

theorem keptByEach_osc {Q : Config → OscUnit → Prop}
    (hQ : ∀ {c p p'}, OscChange c p p' → Q c p → Q c p') (hreset : ∀ c, Q c OscUnit.reset) :
    KeptByEach fun s => ∀ j : UnitIx, Q s.cfg (s.oscAt j) where
  port _ _ := id
  reg _ _ := id
  clear := id
  reset {s} _ j := (resetOf_oscAt s.cfg j).symm ▸ hreset s.cfg
  raise _ hs := by simpa using hs
  unit hu hs := by
    cases hu with
    | osc _ h => exact forall_slot_setSlot (hQ h (hs _)) hs
    | _ => exact hs

theorem keptByEach_dly {Q : Config → DelayUnit → Prop}
    (hQ : ∀ {c d d'}, DelayChange c d d' → Q c d → Q c d') (hreset : ∀ c, Q c DelayUnit.reset) :
    KeptByEach fun s => ∀ k : UnitIx, Q s.cfg (s.dlyAt k) where
  port _ _ := id
  reg _ _ := id
  clear := id
  reset {s} _ k := (resetOf_dlyAt s.cfg k).symm ▸ hreset s.cfg
  raise _ hs := by simpa using hs
  unit hu hs := by
    cases hu with
    | dly _ h => exact forall_slot_setSlot (hQ h (hs _)) hs
    | _ => exact hs

end Sys2Proof.Machine
end

section
/-! PROOFS. Every step keeps the error record right (spec/10_state.md R28, R29, spec/60_exceptions.md
R202). -/

namespace Sys2Proof.Machine

/-- The record depends on the parameters and its own three fields. -/
theorem recordOk_congr {s t : State} (hcfg : t.cfg = s.cfg) (herr : t.err = s.err)
    (hcause : t.cause = s.cause) (hcmd : t.errCmd = s.errCmd) : recordOk t ↔ recordOk s := by
  rw [recordOk, recordOk, hcfg, herr, hcause, hcmd]

/-- Taking the exception records a rejected word with its cause, or keeps the record there is. -/
theorem recordOk_raiseIllegal {s : State} {cause : Cause} {w : Word}
    (h : rejection s.cfg w = some cause) (hs : recordOk s) : recordOk (raiseIllegal cause w s) := by
  unfold raiseIllegal
  split
  · exact hs
  · exact ⟨cause, h, rfl⟩

theorem keptByEach_recordOk : KeptByEach recordOk where
  port _ _ := id
  reg _ _ := id
  clear _ := ⟨rfl, rfl⟩
  reset _ := ⟨rfl, rfl⟩
  raise := recordOk_raiseIllegal
  unit hu := by
    obtain ⟨-, ⟨hcfg, -, -⟩, herr, hcause, hcmd⟩ := hu.frame
    exact (recordOk_congr hcfg herr hcause hcmd).mpr

end Sys2Proof.Machine

namespace Sys2Proof

/-- Settles O56. -/
theorem stepKeepsErrorRecord : Obligations.StepKeepsErrorRecord := fun _ _ =>
  Machine.step_keeps Machine.keptByEach_recordOk

end Sys2Proof
end

section
/-! PROOFS. Every step keeps every ring within its capacity in canonical form (spec/10_state.md R40,
spec/20_memory.md R61, R75, R76). -/

namespace Sys2Proof.Machine

/-- A delay unit's ring is in canonical form within the capacity, its write index below it. -/
def ringOk (c : Config) (d : DelayUnit) : Prop :=
  Memory.wf d.buf ∧ Memory.within c.capacity d.buf ∧ d.w < c.capacity

theorem ringsOk_iff (s : State) : ringsOk s ↔ ∀ k : UnitIx, ringOk s.cfg (s.dlyAt k) := Iff.rfl

/-- An empty ring with its write index at 0. -/
theorem ringOk_of_empty (c : Config) {d : DelayUnit} (hbuf : d.buf = []) (hw : d.w = 0) :
    ringOk c d := by
  rw [ringOk, hbuf, hw]
  exact ⟨by decide, fun _ h => absurd h List.not_mem_nil, capacity_pos c⟩

/-- DCFG empties the ring, DTICK stores inside it and wraps the index. -/
theorem DelayChange.keeps_ringOk {c : Config} {d d' : DelayUnit} (h : DelayChange c d d')
    (hd : ringOk c d) : ringOk c d' := by
  cases h with
  | configure base => exact ringOk_of_empty c rfl rfl
  | setFreq | setDepth => exact hd
  | tick x fs =>
    obtain ⟨hwf, hwithin, -⟩ := hd
    exact ⟨memWrite_wf c d _ x hwf, memWrite_within c d _ x hwithin, Nat.mod_lt _ (capacity_pos c)⟩

end Sys2Proof.Machine

namespace Sys2Proof

open Machine

/-- Settles O57. -/
theorem stepKeepsRings : Obligations.StepKeepsRings := by
  intro s t
  rw [ringsOk_iff, ringsOk_iff]
  exact step_keeps (keptByEach_dly DelayChange.keeps_ringOk fun c => ringOk_of_empty c rfl rfl)

end Sys2Proof
end

section
/-! PROOFS. Every step keeps generators nonzero, oscillator phases below 1 and LFO phases in [0, 1)
(spec/41_pink_noise.md R120 to R125, spec/42_oscillator_bank.md R141, R142, spec/43_chorus_delay.md
R165). -/

namespace Sys2Proof.F32

@[simp] theorem roundMag_zero (den : Nat) : roundMag 0 den = 0 := by
  simp [roundMag, quotNearestEven]

/-- Rounding a sum that is not negative does not make it so. -/
theorem units_add_nonneg (nan : Word) {a b : Word} (ha : isFinite a = true)
    (hb : isFinite b = true) (h : 0 ≤ units a + units b) :
    0 ≤ units (add nan a b) := by
  rw [add_eq_round nan ha hb, units_eq, sign_round, mag_round]
  obtain hz | hpos := h.eq_or_lt
  · simp [← hz]
  · simp [hpos.ne', hpos.not_gt]

end Sys2Proof.F32

namespace Sys2Proof.Machine

/-! ### Generators -/

/-- A word that a shift leaves alone is zero: repeated, the shift empties it. -/
theorem eq_zero_of_eq_shiftLeft {w n : Nat} {x : BitVec w} (hn : 0 < n) (h : x = x <<< n) :
    x = 0#w := by
  have hshifts (k : Nat) : x = x <<< (n * k) := by
    induction k with
    | zero => simp
    | succ k ih => rw [Nat.mul_succ, BitVec.shiftLeft_add, ← ih, ← h]
  rw [hshifts w]
  exact BitVec.shiftLeft_eq_zero (Nat.le_mul_of_pos_left w hn)

theorem eq_zero_of_eq_ushiftRight {w n : Nat} {x : BitVec w} (hn : 0 < n) (h : x = x >>> n) :
    x = 0#w := by
  have hshifts (k : Nat) : x = x >>> (n * k) := by
    induction k with
    | zero => simp
    | succ k ih => rw [Nat.mul_succ, BitVec.shiftRight_add, ← ih, ← h]
  rw [hshifts w]
  exact BitVec.ushiftRight_eq_zero (Nat.le_mul_of_pos_left w hn)

theorem xor_shiftLeft_ne_zero {w n : Nat} {x : BitVec w} (hn : 0 < n) (hx : x ≠ 0#w) :
    x ^^^ (x <<< n) ≠ 0#w := fun h =>
  hx (eq_zero_of_eq_shiftLeft hn (BitVec.xor_eq_zero_iff.mp h))

theorem xor_ushiftRight_ne_zero {w n : Nat} {x : BitVec w} (hn : 0 < n) (hx : x ≠ 0#w) :
    x ^^^ (x >>> n) ≠ 0#w := fun h =>
  hx (eq_zero_of_eq_ushiftRight hn (BitVec.xor_eq_zero_iff.mp h))

/-- Each of the three steps of the generator takes nonzero words to nonzero words (R120). -/
theorem xorshift32_ne_zero {s : Word} (h : s ≠ 0#32) : xorshift32 s ≠ 0#32 :=
  xor_shiftLeft_ne_zero (by decide) (xor_ushiftRight_ne_zero (by decide)
    (xor_shiftLeft_ne_zero (by decide) h))

/-- Seeding leaves the generator nonzero for every seed, 0 being replaced (R123). -/
theorem seedPink_rng_ne_zero (c : Config) (p : PinkUnit) (seed : Word) :
    (seedPink c p seed).rng ≠ 0#32 := by
  have hseed : (if seed = 0#32 then defaultSeed else seed) ≠ 0#32 := by
    split
    · decide
    · assumption
  rw [seedPink_rng]
  exact xorshift32_ne_zero (xorshift32_ne_zero (xorshift32_ne_zero (xorshift32_ne_zero
    (xorshift32_ne_zero hseed))))

/-- PNEXT redraws any of the five taps, so it advances the generator some number of times (R124). -/
theorem pinkAdvance_rng_ne_zero {c : Config} {p : PinkUnit} (h : p.rng ≠ 0#32) :
    (pinkAdvance c p).rng ≠ 0#32 := by
  refine List.foldlRecOn (motive := fun q : PinkUnit => q.rng ≠ 0#32) _ _ h fun q hq i _ => ?_
  unfold redrawTap
  split
  · exact xorshift32_ne_zero hq
  · exact hq

theorem PinkChange.keeps_rng_ne_zero {c : Config} {p p' : PinkUnit} (h : PinkChange c p p')
    (hp : p.rng ≠ 0#32) : p'.rng ≠ 0#32 := by
  cases h with
  | seed seed => exact seedPink_rng_ne_zero c p seed
  | advance => exact pinkAdvance_rng_ne_zero hp
  | draw => exact xorshift32_ne_zero hp

theorem keptByEach_generatorsOk : KeptByEach generatorsOk :=
  keptByEach_pink (Q := fun _ p => p.rng ≠ 0#32) PinkChange.keeps_rng_ne_zero
    fun c _ => seedPink_rng_ne_zero c _ _

/-! ### Oscillator phases -/

/-- What is not at least 1 is below 1 or a NaN. -/
theorem phaseOk_of_not_ge_one {ph : Word} (h : F32.ge ph F32.one = false) : phaseOk ph := by
  cases hn : F32.isNaN ph with
  | true => exact .inl hn
  | false =>
    rw [Bool.eq_false_iff, ne_eq, F32.ge_iff hn (by decide)] at h
    exact .inr ((F32.lt_iff hn (by decide)).mpr (not_le.mp h))

theorem phaseOk_zero : phaseOk F32.zero := .inr (by decide +kernel)

/-- OSCSTEP leaves the loop below 1 or with a NaN, and a trigger resets the phase or keeps it. -/
theorem OscChange.keeps_phaseOk {c : Config} {p p' : OscUnit} (h : OscChange c p p')
    (hp : phaseOk p.phase) : phaseOk p'.phase := by
  cases h with
  | pitch | mode => exact hp
  | step h => exact phaseOk_of_not_ge_one (wrapDown_some c _ _ _ h)
  | trigger v =>
    obtain ⟨-, -, e⟩ | ⟨-, -, e⟩ | e := oscTrigger_cases c p v <;> rw [e]
    · exact phaseOk_zero
    · exact hp
    · exact hp

theorem keptByEach_phaseOk : KeptByEach fun s => ∀ j : UnitIx, phaseOk (s.oscAt j).phase :=
  keptByEach_osc (Q := fun _ p => phaseOk p.phase) OscChange.keeps_phaseOk fun _ => phaseOk_zero

/-! ### LFO phases -/

/-- What R165 subtracts leaves a value that is not negative; of an infinity it leaves a NaN. -/
theorem fract_nonneg_or_nan {c : Config} (hnan : F32.isNaN c.nanResult = true) {v : Word}
    (hv : F32.isNaN v = false) : F32.isNaN (fsub c v (F32.floor32 v)) = true ∨
      0 ≤ F32.units (fsub c v (F32.floor32 v)) := by
  obtain hn | hinf | hfin := F32.classes v
  · rw [hv] at hn; cases hn
  · have hfloor : F32.floor32 v = v := by simp [F32.floor32, F32.isInf_not_isFinite hinf]
    rw [hfloor, fsub, F32.sub_inf_inf _ hinf hinf, if_pos rfl]
    exact .inl hnan
  · obtain ⟨hffin, hfloor⟩ := F32.floor32_finite hfin
    have hle := F32.floorInt_le v
    refine .inr (F32.units_add_nonneg _ hfin ((F32.isFinite_neg _).trans hffin) ?_)
    rw [F32.units_neg, hfloor]
    omega

/-- What is not negative and not at least 1 is a wrapped LFO phase. -/
theorem lfoPhaseOk_of_not_ge_one {v : Word} (hv : F32.isNaN v = true ∨ 0 ≤ F32.units v)
    (h : F32.ge v F32.one = false) : lfoPhaseOk v := by
  cases hn : F32.isNaN v with
  | true => exact .inl hn
  | false =>
    rw [hn] at hv
    have hzero : F32.units F32.zero = 0 := by decide
    refine .inr ⟨(F32.ge_iff hn (by decide)).mpr ?_, ?_⟩
    · rw [hzero]; simpa using hv
    · simpa [phaseOk, hn] using phaseOk_of_not_ge_one h

theorem lfoPhaseOk_zero : lfoPhaseOk F32.zero := .inr (by decide +kernel)

/-- A wrapped phase is in `[0, 1)` or a NaN (R165). -/
theorem lfoPhaseOk_wrapPhase {c : Config} (hnan : F32.isNaN c.nanResult = true) (v : Word) :
    lfoPhaseOk (wrapPhase c v) := by
  unfold wrapPhase
  split
  · next hn => exact .inl hn
  · next hn =>
    rw [Bool.not_eq_true] at hn
    split
    · dsimp only
      split
      · exact lfoPhaseOk_zero
      · next hge =>
        exact lfoPhaseOk_of_not_ge_one (fract_nonneg_or_nan hnan hn) (by simpa using hge)
    · next hin =>
      obtain ⟨hge, hlt⟩ : F32.ge v F32.one = false ∧ F32.lt v F32.zero = false := by simpa using hin
      rw [Bool.eq_false_iff, ne_eq, F32.lt_iff hn (by decide), not_lt] at hlt
      exact lfoPhaseOk_of_not_ge_one (.inr hlt) hge

/-- DCFG resets the LFO phase and DTICK wraps it; the other two keep it. -/
theorem DelayChange.keeps_lfoPhaseOk {c : Config} {d d' : DelayUnit} (h : DelayChange c d d')
    (hd : F32.isNaN c.nanResult = true → lfoPhaseOk d.lfoPhase)
    (hnan : F32.isNaN c.nanResult = true) : lfoPhaseOk d'.lfoPhase := by
  cases h with
  | configure base => exact lfoPhaseOk_zero
  | setFreq | setDepth => exact hd hnan
  | tick x fs => exact lfoPhaseOk_wrapPhase hnan _

theorem keptByEach_lfoPhaseOk : KeptByEach fun s => ∀ k : UnitIx,
    F32.isNaN s.cfg.nanResult = true → lfoPhaseOk (s.dlyAt k).lfoPhase :=
  keptByEach_dly (Q := fun c d => F32.isNaN c.nanResult = true → lfoPhaseOk d.lfoPhase)
    DelayChange.keeps_lfoPhaseOk fun _ _ => lfoPhaseOk_zero

theorem keptByEach_cfg (c : Config) : KeptByEach fun s => s.cfg = c where
  port _ _ := id
  reg _ _ := id
  clear := id
  reset := id
  raise _ hs := by rwa [raiseIllegal_cfg]
  unit hu hs := by
    obtain ⟨-, ⟨hcfg, -, -⟩, -⟩ := hu.frame
    rwa [hcfg]

end Sys2Proof.Machine

namespace Sys2Proof

open Machine

/-- Settles O58: each kind of unit on its own, the parameters being constant. -/
theorem stepKeepsUnitsInRange : Obligations.StepKeepsUnitsInRange := by
  rintro s t hnan hgen ⟨hosc, hlfo⟩ h
  have hcfg : t.cfg = s.cfg := step_keeps (keptByEach_cfg s.cfg) rfl h
  have hlfo' := step_keeps keptByEach_lfoPhaseOk (fun k _ => hlfo k) h
  exact ⟨step_keeps keptByEach_generatorsOk hgen h, step_keeps keptByEach_phaseOk hosc h,
    fun k => hlfo' k (hcfg ▸ hnan)⟩

end Sys2Proof
end

section
/-! PROOFS. What the host reads and what its writes do at each address (spec/10_state.md R25 to R32). -/

namespace Sys2Proof.Machine

/-! ### Addresses -/

/-- The operand registers are the addresses below `ID`. -/
theorem reg_lt_idAddr (r : Reg) : r.setWidth 8 < idAddr := by
  rw [BitVec.lt_def, BitVec.toNat_setWidth_of_le (by decide)]
  exact r.isLt

@[simp] theorem regOfAddr_setWidth (r : Reg) : regOfAddr (r.setWidth 8) = r := by
  apply BitVec.eq_of_toNat_eq
  have hr : r.toNat < 16 := r.isLt
  simpa [regOfAddr] using hr

/-- A reserved address is none of the others. -/
theorem reserved_ne {a : BitVec 8} (h : 0x16#8 ≤ a) :
    ¬ a < idAddr ∧ a ≠ idAddr ∧ a ≠ configAddr ∧ a ≠ statusAddr ∧ a ≠ errCmdAddr ∧ a ≠ cmdAddr ∧
      a ≠ resetAddr := by
  simp only [idAddr, configAddr, statusAddr, errCmdAddr, cmdAddr, resetAddr]
  bv_omega

theorem hostWord_reg (s : State) (r : Reg) : hostWord s (r.setWidth 8) = s.readReg r := by
  rw [hostWord, if_pos (reg_lt_idAddr r), regOfAddr_setWidth]

theorem hostWord_reserved (s : State) {a : BitVec 8} (h : 0x16#8 ≤ a) : hostWord s a = 0#32 := by
  obtain ⟨hreg, hid, hconfig, hstatus, herrCmd, -, -⟩ := reserved_ne h
  rw [hostWord, if_neg hreg, if_neg hid, if_neg hconfig, if_neg hstatus, if_neg herrCmd]

theorem hostWrite_reserved (d : Word) (s : State) {a : BitVec 8} (h : 0x16#8 ≤ a) :
    hostWrite a d s = .next s := by
  obtain ⟨hreg, -, -, hstatus, -, hcmd, hreset⟩ := reserved_ne h
  rw [hostWrite, if_neg hreg, if_neg hstatus, if_neg hcmd, if_neg hreset]

/-! ### Packed words -/

/-- A concatenation as a number. -/
theorem toNat_append_eq_add {m n : Nat} (x : BitVec m) (y : BitVec n) :
    (x ++ y).toNat = x.toNat * 2 ^ n + y.toNat := by
  rw [BitVec.toNat_append, ← Nat.shiftLeft_add_eq_or_of_lt y.isLt, Nat.shiftLeft_eq]

/-- CONFIG holds every parameter of a legal configuration in a field wide enough for it (R7, R27). -/
theorem configWord_toNat {c : Config} (h : c.Legal) :
    (configWord c).toNat = c.numSvf + 2 ^ 5 * c.numPink + 2 ^ 10 * c.numBank + 2 ^ 15 * c.numDelay +
      2 ^ 20 * c.log2Cap := by
  obtain ⟨⟨-, hsvf⟩, ⟨-, hpink⟩, ⟨-, hbank⟩, ⟨-, hdelay⟩, ⟨-, hcap⟩, -⟩ := h
  simp only [configWord, toNat_append_eq_add, BitVec.toNat_ofNat]
  omega

/-- STATUS is CAUSE above three zeros above ERR (R28). -/
theorem statusWord_eq (s : State) :
    statusWord s = BitVec.ofNat 32 (s.cause.toNat * 16 + s.err.toNat) := by
  apply BitVec.eq_of_toNat_eq
  have hcause := s.cause.isLt
  have herr : s.err.toNat < 2 := Bool.toNat_lt s.err
  simp only [statusWord, toNat_append_eq_add, BitVec.toNat_ofNat, BitVec.toNat_ofBool]
  omega

end Sys2Proof.Machine

namespace Sys2Proof

open Machine

/-- Settles O50. -/
theorem hostMapReads : Obligations.HostMapReads := fun s =>
  ⟨hostWord_reg s, (by decide : idWord = 0x524A4D07#32), configWord_toNat,
    statusWord_eq s, rfl, rfl, rfl, fun _ => hostWord_reserved s⟩

/-- Settles O51. -/
theorem hostMapWrites : Obligations.HostMapWrites := by
  intro d s
  refine ⟨fun r => ?_, hostWrite_status d s, rfl, rfl, rfl, fun hd => ?_, fun _ => hostWrite_reserved d s⟩
  · rw [hostWrite_reg (reg_lt_idAddr r), regOfAddr_setWidth]
  · rw [show 0x15#8 = resetAddr from rfl, hostWrite_reset, hd]
    rfl

end Sys2Proof
end

section
/-! PROOFS. A filter in its reset state is silent (spec/10_state.md R34, spec/40_svf.md R102): with
`g = 0` both integrators add a zero of either sign to `+0`, which is `+0`, whatever finite value the
high-pass tap has. -/

namespace Sys2Proof.F32

/-- Below the overflow threshold a rounded value is finite. -/
theorem isFinite_round (s : Bool) {num den : Nat} (hden : 0 < den) (h : num < overflowAt * den) :
    isFinite (round s num den) = true := by
  rw [isFinite, mag_round]
  exact decide_eq_true (roundMag_nearest hden h).1

/-- Every finite magnitude is below the overflow threshold. -/
theorem magUnits_lt_overflowAt {v : Word} (h : isFinite v = true) : magUnits (mag v) < overflowAt := by
  obtain ⟨step, hpos, hmax, hover, -⟩ := exists_overflow_halfStep
  have hle : mag v ≤ 0x7F7FFFFF := by
    rw [isFinite, decide_eq_true_iff] at h
    omega
  have := magUnits_strictMono.monotone hle
  omega

theorem isFinite_sub_zero (nan : Word) {v : Word} (h : isFinite v = true) :
    isFinite (sub nan v zero) = true := by
  have hlt := magUnits_lt_overflowAt h
  rw [sub, add_eq_round nan h (by decide), show units (neg zero) = 0 by decide, Int.add_zero,
    natAbs_units]
  exact isFinite_round _ one_pos (by omega)

theorem isFinite_div_one (nan : Word) {v : Word} (h : isFinite v = true) :
    isFinite (div nan v one) = true := by
  have hone : magUnits (mag one) = unit1 := by decide +kernel
  rw [div_finite h (by decide) (by decide), hone]
  exact isFinite_round _ unit1_pos (Nat.mul_lt_mul_of_pos_right (magUnits_lt_overflowAt h) unit1_pos)

theorem isFinite_zero : isFinite zero = true := by decide

/-- `+0` times a finite value is a zero, and `+0` more than it is `+0`. -/
theorem add_mul_zero_zero (nan : Word) {v : Word} (h : isFinite v = true) :
    add nan (mul nan zero v) zero = zero := by
  have hmul : mul nan zero v = pack (sign zero != sign v) 0 := by
    rw [mul_finite (by decide) h, show magUnits (mag zero) = 0 by decide, Nat.zero_mul, round,
      roundMag_zero]
  rw [hmul]
  cases sign zero != sign v <;> rfl

end Sys2Proof.F32

namespace Sys2Proof.Machine

theorem setSvf_svfAt (s : State) (k : UnitIx) : s.setSvf k (s.svfAt k) = s := by
  have h : setSlot s.svf k (slot s.svf k) = s.svf := Vector.set_getElem_self _
  rw [State.setSvf, State.svfAt, h]

/-- The coefficients of the reset state: `2R + g` is 2 and the denominator is 1. -/
theorem svfReset_coefficients (c : Config) : fadd c F32.one F32.one = F32.two ∧
    fadd c F32.two F32.zero = F32.two ∧ fadd c F32.one F32.zero = F32.one ∧
    fmul c F32.two F32.zero = F32.zero ∧ fmul c F32.zero F32.zero = F32.zero := by
  unfold fadd fmul
  refine ⟨?_, ?_, ?_, ?_, ?_⟩
  case refine_4 | refine_5 => rw [F32.mul_finite (by decide) (by decide)]; decide +kernel
  all_goals
    rw [F32.add_finite (by decide) (by decide) (by decide +kernel)]
    decide +kernel

/-- An integrator of gain 0 that holds `+0` gives `+0`. -/
theorem integrator_zero (c : Config) {v : Word} (h : F32.isFinite v = true) :
    fadd c (fmul c F32.zero v) F32.zero = F32.zero := F32.add_mul_zero_zero c.nanResult h

theorem fadd_zero_zero (c : Config) : fadd c F32.zero F32.zero = F32.zero := rfl

/-- The taps of a unit in its reset state: a finite high-pass tap, and `+0` for the other two. -/
theorem svfTaps_reset (c : Config) {x : Word} (hx : F32.isFinite x = true) :
    ∃ hp, F32.isFinite hp = true ∧ svfTaps c SvfUnit.reset x = ⟨hp, F32.zero, F32.zero⟩ := by
  obtain ⟨htwo, ha, hone, htwoz, hzz⟩ := svfReset_coefficients c
  have hp : F32.isFinite (fdiv c (fsub c (fsub c x F32.zero) F32.zero) F32.one) = true :=
    F32.isFinite_div_one _ (F32.isFinite_sub_zero _ (F32.isFinite_sub_zero _ hx))
  refine ⟨_, hp, ?_⟩
  simp only [svfTaps, SvfUnit.reset, htwo, ha, hone, htwoz, hzz, integrator_zero c hp,
    fadd_zero_zero]

/-- A sample leaves the reset state as it is, whatever the finite high-pass tap. -/
theorem svfAdvance_reset (c : Config) {hp : Word} (h : F32.isFinite hp = true) :
    svfAdvance c SvfUnit.reset ⟨hp, F32.zero, F32.zero⟩ = SvfUnit.reset := by
  simp only [svfAdvance, SvfUnit.reset, integrator_zero c h, integrator_zero c F32.isFinite_zero]

end Sys2Proof.Machine

namespace Sys2Proof

open Machine

/-- Settles O8. -/
theorem svfSilentAfterReset : Obligations.SvfSilentAfterReset := by
  intro rd u rs1 s hu hreset hx
  have hr : unitInRange s.cfg (.svfproc rd u rs1) = true := decide_eq_true hu
  obtain ⟨hp, hhp, htaps⟩ := svfTaps_reset s.cfg hx
  replace hreset : s.svfAt u = SvfUnit.reset := hreset
  refine (withUnit_inRange hr).trans ?_
  rw [hreset, htaps, svfAdvance_reset s.cfg hhp]
  change Host.Outcome.next ((s.setSvf u SvfUnit.reset).writeReg rd F32.zero) = _
  rw [← hreset, setSvf_svfAt]
  rfl

end Sys2Proof
end

section
/-! PROOFS. DTICK stores one word in its own ring (spec/20_memory.md R60, R61, R75,
spec/43_chorus_delay.md R163). -/

namespace Sys2Proof.Machine

/-- The delay units after DTICK: its own has stored the input and then advanced, every other one is as
it was (R163). -/
theorem dlyAt_of_exec_dtick {rd : Reg} {u : UnitIx} {rs1 rs2 : Reg} {s t : State}
    (hu : u.toNat < s.cfg.numDelay) (h : exec (.dtick rd u rs1 rs2) s = .next t) (k : UnitIx) :
    t.dlyAt k = if k = u then
      delayAdvance s.cfg (memWrite s.cfg (s.dlyAt u) (s.dlyAt u).w (s.readReg rs1)) (s.readReg rs2)
      else s.dlyAt k := by
  have hr : unitInRange s.cfg (.dtick rd u rs1 rs2) = true := decide_eq_true hu
  cases (withUnit_inRange hr).symm.trans h
  rw [dlyAt_writeReg, dlyAt_setDly]

/-- `MemRead` depends on the ring alone, which the advance after a sample keeps. -/
@[simp] theorem memRead_delayAdvance (c : Config) (d : DelayUnit) (fs : Word) (i : Int) :
    memRead c (delayAdvance c d fs) i = memRead c d i := rfl

/-- `MemWrite` leaves every byte outside the four of its word (R75). -/
theorem readByte_memWrite_ne (c : Config) (d : DelayUnit) (i : Int) (v : Word) {a : Nat}
    (ha : ¬ (4 * ringIndex c i ≤ a ∧ a < 4 * ringIndex c i + 4)) :
    Memory.readByte (memWrite c d i v).buf a = Memory.readByte d.buf a := by
  rw [memWrite_buf]
  exact Memory.readByte_writeWord_ne _ _ _ _ (by omega)

end Sys2Proof.Machine

namespace Sys2Proof

open Machine

/-- Settles O26: the ring of `u` is the old one after one `MemWrite`, every other ring is the old one. -/
theorem dtickStoresOneWord : Obligations.DtickStoresOneWord := by
  intro rd u rs1 rs2 s t hu hrings h
  obtain ⟨hwf, -, -⟩ := hrings u
  have hown := dlyAt_of_exec_dtick hu h u
  rw [if_pos rfl] at hown
  refine ⟨?_, fun a ha => ?_, fun k a hk => ?_⟩
  · rw [hown, memRead_delayAdvance]
    exact memRead_memWrite _ _ _ _ hwf
  · rw [hown, delayAdvance_buf]
    exact readByte_memWrite_ne _ _ _ _ ha
  · rw [dlyAt_of_exec_dtick hu h k, if_neg hk]

end Sys2Proof
end

section
/-! PROOFS. Every word the decoder accepts is the word of the command it reads, and each rejection has
the cause of the first of its three checks that fails (spec/30_encoding.md R80 to R93). -/

namespace Sys2Proof

open Laws.RowMatches

/-! ### A word is its fields (R80, R93) -/

section
variable {w : Word} {op : BitVec 6} {rd rs1 rs2 rs3 : Reg} {u : UnitIx} {imm6 : BitVec 6}
  {imm16 : BitVec 16}

/-- The seven fields of format R are the whole word. -/
theorem formatR_eq_of_fields (hop : op = opField w) (hrd : rd = rdField w) (hrs1 : rs1 = rs1Field w)
    (hrs2 : rs2 = rs2Field w) (hrs3 : rs3 = rs3Field w) (hu : u = unitField w)
    (himm : imm6 = w.extractLsb' 0 6) : formatR op rd rs1 rs2 rs3 u imm6 = w := by
  subst hop hrd hrs1 hrs2 hrs3 hu himm
  simp only [formatR, opField, rdField, rs1Field, rs2Field, rs3Field, unitField]
  repeat rw [BitVec.extractLsb'_append_extractLsb'_eq_extractLsb' (by rfl)]
  exact BitVec.extractLsb'_eq_self

/-- The fields of format I, with its six reserved bits, are the whole word. -/
theorem formatI_eq_of_fields (hop : op = opField w) (hrd : rd = rdField w)
    (hzero : 0#6 = w.extractLsb' 16 6) (himm : imm16 = imm16Field w) :
    formatI op rd imm16 = w := by
  subst hop hrd himm
  simp only [formatI, hzero, opField, rdField, imm16Field]
  repeat rw [BitVec.extractLsb'_append_extractLsb'_eq_extractLsb' (by rfl)]
  exact BitVec.extractLsb'_eq_self

end

/-- The mode bits are the whole of `imm6` where the reserved bits 5:2 are zero (R84). -/
theorem modeField_setWidth {w : Word} (h : 0#4 = w.extractLsb' 2 4) :
    (modeField w).setWidth 6 = w.extractLsb' 0 6 :=
  calc (modeField w).setWidth 6
    _ = 0#4 ++ w.extractLsb' 0 2 := BitVec.setWidth_eq_append (by decide)
    _ = w.extractLsb' 2 4 ++ w.extractLsb' 0 2 := by rw [h]
    _ = w.extractLsb' 0 6 := BitVec.extractLsb'_append_extractLsb'_eq_extractLsb' rfl

/-- A field below the opcode is zero where its bits are all under the row's mask: the table's pattern is
the opcode above zeros (R81, R83). -/
theorem field_eq_zero {w mask : Word} {op : BitVec 6} {k n : Nat} (h : w &&& mask = op ++ 0#26)
    (hmask : mask.extractLsb' k n = BitVec.allOnes n := by rfl) (hk : k + n ≤ 26 := by decide) :
    0#n = w.extractLsb' k n := by
  have hzero : (op ++ 0#26).extractLsb' k n = 0#n :=
    (BitVec.extractLsb'_append_eq_of_add_le hk).trans BitVec.extractLsb'_zero
  rw [← hzero, ← h, BitVec.extractLsb'_and, hmask, BitVec.and_allOnes]

/-! ### A word that matches a mask of the map has only the fields the mask leaves open (R82) -/

section
variable {w : Word} {op : BitVec 6} (hop : opField w = op)
include hop

theorem formatI_of_match (h : w &&& 0xFC3F0000#32 = op ++ 0#26) :
    formatI op (rdField w) (imm16Field w) = w :=
  formatI_eq_of_fields hop.symm rfl (field_eq_zero h) rfl

theorem formatR_none_of_match (h : w &&& 0xFFFFFFFF#32 = op ++ 0#26) :
    formatR op 0 0 0 0 0 0 = w :=
  formatR_eq_of_fields hop.symm (field_eq_zero h) (field_eq_zero h) (field_eq_zero h)
    (field_eq_zero h) (field_eq_zero h) (field_eq_zero h)

theorem formatR_rd_rs1_of_match (h : w &&& 0xFC03FFFF#32 = op ++ 0#26) :
    formatR op (rdField w) (rs1Field w) 0 0 0 0 = w :=
  formatR_eq_of_fields hop.symm rfl rfl (field_eq_zero h) (field_eq_zero h) (field_eq_zero h)
    (field_eq_zero h)

theorem formatR_rd_rs1_unit_of_match (h : w &&& 0xFC03FC3F#32 = op ++ 0#26) :
    formatR op (rdField w) (rs1Field w) 0 0 (unitField w) 0 = w :=
  formatR_eq_of_fields hop.symm rfl rfl (field_eq_zero h) (field_eq_zero h) rfl (field_eq_zero h)

theorem formatR_rs1_unit_of_match (h : w &&& 0xFFC3FC3F#32 = op ++ 0#26) :
    formatR op 0 (rs1Field w) 0 0 (unitField w) 0 = w :=
  formatR_eq_of_fields hop.symm (field_eq_zero h) rfl (field_eq_zero h) (field_eq_zero h) rfl
    (field_eq_zero h)

theorem formatR_rd_unit_of_match (h : w &&& 0xFC3FFC3F#32 = op ++ 0#26) :
    formatR op (rdField w) 0 0 0 (unitField w) 0 = w :=
  formatR_eq_of_fields hop.symm rfl (field_eq_zero h) (field_eq_zero h) (field_eq_zero h) rfl
    (field_eq_zero h)

theorem formatR_unit_mode_of_match (h : w &&& 0xFFFFFC3C#32 = op ++ 0#26) :
    formatR op 0 0 0 0 (unitField w) ((modeField w).setWidth 6) = w :=
  formatR_eq_of_fields hop.symm (field_eq_zero h) (field_eq_zero h) (field_eq_zero h)
    (field_eq_zero h) rfl (modeField_setWidth (field_eq_zero h))

theorem formatR_rd_rs1_rs2_unit_of_match (h : w &&& 0xFC003C3F#32 = op ++ 0#26) :
    formatR op (rdField w) (rs1Field w) (rs2Field w) 0 (unitField w) 0 = w :=
  formatR_eq_of_fields hop.symm rfl rfl rfl (field_eq_zero h) rfl (field_eq_zero h)

theorem formatR_rd_rs1_rs2_rs3_of_match (h : w &&& 0xFC0003FF#32 = op ++ 0#26) :
    formatR op (rdField w) (rs1Field w) (rs2Field w) (rs3Field w) 0 0 = w :=
  formatR_eq_of_fields hop.symm rfl rfl rfl rfl (field_eq_zero h) (field_eq_zero h)

theorem formatR_rs1_rs2_rs3_unit_mode_of_match (h : w &&& 0xFFC0003C#32 = op ++ 0#26) :
    formatR op 0 (rs1Field w) (rs2Field w) (rs3Field w) (unitField w) ((modeField w).setWidth 6) =
      w :=
  formatR_eq_of_fields hop.symm (field_eq_zero h) rfl rfl rfl rfl
    (modeField_setWidth (field_eq_zero h))

end

/-! ### The rows of the map (R82) -/

/-- No two rows have one opcode. -/
theorem opcodeMap_op_injective :
    ∀ r ∈ opcodeMap, ∀ r' ∈ opcodeMap, r.op = r'.op → r = r' := by
  decide

/-- A word has the masked bits of the row with its opcode when it has those of any row with it. -/
theorem match_of_row {w : Word} {r r' : OpRow} (hr : r ∈ opcodeMap) (hr' : r' ∈ opcodeMap)
    (hop : opField w = r.op) (hop' : opField w = r'.op) (h : w &&& r.mask = r.pattern) :
    w &&& r'.mask = r'.pattern :=
  opcodeMap_op_injective r hr r' hr' (hop.symm.trans hop') ▸ h

/-- The row of SVFCFG, the one command the third check of R92 concerns. -/
def svfcfgRow : OpRow := ⟨0x08#6, 0x20000000#32, 0xFFC0003C#32⟩

theorem svfcfgRow_mem : svfcfgRow ∈ opcodeMap := by simp [svfcfgRow, opcodeMap]

/-- The opcode is among the masked bits of SVFCFG's row. -/
theorem opField_of_svfcfgRow_match {w : Word} (h : w &&& svfcfgRow.mask = svfcfgRow.pattern) :
    opField w = svfcfgRow.op :=
  calc opField w
    _ = opField (w &&& svfcfgRow.mask) := (BitVec.extractLsb'_and.trans BitVec.and_allOnes).symm
    _ = svfcfgRow.op := by rw [h]; rfl

/-! ### Everything the decoder answers (R92) -/

/-- The answers of the decoder, each with what its checks found: no row of the map has the opcode, the
row that has it has other masked bits, the word is an otherwise legal SVFCFG with mode 3, or it is the
word of the command read. -/
inductive Decodes (w : Word) : Decoded → Prop where
  | noRow (h : ∀ r ∈ opcodeMap, opField w ≠ r.op) : Decodes w (.illegal .illegalOpcode)
  | reserved {r : OpRow} (hr : r ∈ opcodeMap) (hop : opField w = r.op)
      (h : w &&& r.mask ≠ r.pattern) : Decodes w (.illegal .reservedField)
  | mode (h : w &&& svfcfgRow.mask = svfcfgRow.pattern) (hmode : modeField w = 3#2) :
      Decodes w (.illegal .reservedMode)
  | accepted {i : Instr} (h : encode i = w) : Decodes w (.ok i)

section
variable {w : Word}

/-- The second check: a word with a row's opcode fails it, or goes on with the row's masked bits. -/
theorem decodes_checkReserved {op : BitVec 6} {mask pattern : Word} {rest : Decoded}
    (hr : ⟨op, pattern, mask⟩ ∈ opcodeMap) (hop : (opField w).toNat = op.toNat)
    (hrest : opField w = op → w &&& mask = pattern → Decodes w rest) :
    Decodes w (checkReserved w mask pattern rest) := by
  have hop : opField w = op := BitVec.eq_of_toNat_eq hop
  unfold checkReserved
  split
  · next h => exact hrest hop h
  · next h => exact .reserved hr hop h

/-- The row of a command that accounts for every bit of the word once the second check passes. -/
theorem decodes_row {i : Instr} {op : BitVec 6} {mask pattern : Word}
    (hrow : row i = ⟨op, pattern, mask⟩) (hop : (opField w).toNat = op.toNat)
    (henc : opField w = op → w &&& mask = pattern → encode i = w) :
    Decodes w (checkReserved w mask pattern (.ok i)) :=
  decodes_checkReserved (hrow ▸ (rowMatches i).1) hop fun ho hm => .accepted (henc ho hm)

/-- A mode that is one of R84's three is read, the fourth is rejected. -/
theorem decodes_decodeSvfcfg (hop : opField w = 0x08#6)
    (h : w &&& 0xFFC0003C#32 = 0x20000000#32) : Decodes w (decodeSvfcfg w) := by
  have henc := formatR_rs1_rs2_rs3_unit_mode_of_match hop h
  have accept {mode : FilterMode} (hm : (modeField w).toNat = mode.code.toNat) :
      Decodes w (.ok (.svfcfg (unitField w) mode (rs1Field w) (rs2Field w) (rs3Field w))) := by
    rw [BitVec.eq_of_toNat_eq hm] at henc
    exact .accepted henc
  unfold decodeSvfcfg
  split
  · next hm => exact accept hm
  · next hm => exact accept hm
  · next hm => exact accept hm
  · next h0 h1 h2 =>
    have hlt := (modeField w).isLt
    have hthree : (modeField w).toNat = 3 := by rw [imp_false] at h0 h1 h2; omega
    exact .mode h (BitVec.eq_of_toNat_eq hthree)

/-- The answer of the decoder to any word is one of these: a row's word has its fields where the row's
mask leaves bits open, and no row is left out. -/
theorem decodes (w : Word) : Decodes w (decode w) := by
  unfold decode
  split
  · next hop => exact decodes_row rfl hop formatR_none_of_match
  · next hop => exact decodes_row rfl hop formatI_of_match
  · next hop => exact decodes_row rfl hop formatI_of_match
  · next hop => exact decodes_row rfl hop formatR_rd_rs1_of_match
  · next hop => exact decodes_checkReserved svfcfgRow_mem hop decodes_decodeSvfcfg
  · next hop => exact decodes_row rfl hop formatR_rd_rs1_unit_of_match
  · next hop => exact decodes_row rfl hop formatR_rs1_unit_of_match
  · next hop => exact decodes_row rfl hop formatR_rd_unit_of_match
  · next hop => exact decodes_row rfl hop formatR_rd_unit_of_match
  · next hop => exact decodes_row rfl hop formatR_rs1_unit_of_match
  · next hop => exact decodes_row rfl hop formatR_rs1_unit_of_match
  · next hop => exact decodes_row rfl hop formatR_rs1_unit_of_match
  · next hop => exact decodes_row rfl hop formatR_rd_unit_of_match
  · next hop => exact decodes_row rfl hop formatR_unit_mode_of_match
  · next hop => exact decodes_row rfl hop formatR_rd_rs1_rs2_unit_of_match
  · next hop => exact decodes_row rfl hop formatR_rs1_unit_of_match
  · next hop => exact decodes_row rfl hop formatR_rs1_unit_of_match
  · next hop => exact decodes_row rfl hop formatR_rs1_unit_of_match
  · next hop => exact decodes_row rfl hop formatR_rd_rs1_rs2_unit_of_match
  · next hop => exact decodes_row rfl hop formatR_rd_rs1_rs2_rs3_of_match
  · next hop => exact decodes_row rfl hop formatR_rd_rs1_rs2_rs3_of_match
  · next hop => exact decodes_row rfl hop formatR_rd_rs1_rs2_rs3_of_match
  · refine .noRow ?_
    simp only [opcodeMap, List.cons_append, List.nil_append, List.forall_mem_cons,
      List.not_mem_nil, false_imp_iff, implies_true, and_true, ne_eq, ← BitVec.toNat_inj]
    and_intros <;> assumption

end

/-! ### When each cause is answered (R92, R204) -/

/-- No command's word is SVFCFG with mode 3: a filter type has one of the three other codes. -/
theorem modeField_encode_ne_three {i : Instr} (hop : opField (encode i) = svfcfgRow.op) :
    modeField (encode i) ≠ 3#2 := by
  cases i with
  | svfcfg u mode rs1 rs2 rs3 => cases mode <;> simp [encode, FilterMode.code]
  | _ => simp [encode, svfcfgRow] at hop

section
variable {w : Word} {d : Decoded}

theorem Decodes.illegalOpcode_iff (hd : Decodes w d) :
    d = .illegal .illegalOpcode ↔ ∀ r ∈ opcodeMap, opField w ≠ r.op := by
  cases hd with
  | noRow h => exact iff_of_true rfl h
  | reserved hr hop h => exact iff_of_false nofun fun hno => hno _ hr hop
  | mode h hmode =>
    exact iff_of_false nofun fun hno => hno _ svfcfgRow_mem (opField_of_svfcfgRow_match h)
  | @accepted i h =>
    obtain ⟨hr, hop, -⟩ := rowMatches i
    exact iff_of_false nofun fun hno => hno _ hr (h ▸ hop)

theorem Decodes.reservedField_iff (hd : Decodes w d) :
    d = .illegal .reservedField ↔
      ∃ r ∈ opcodeMap, opField w = r.op ∧ w &&& r.mask ≠ r.pattern := by
  cases hd with
  | noRow h => exact iff_of_false nofun fun ⟨r, hr, hop, _⟩ => h r hr hop
  | reserved hr hop h => exact iff_of_true rfl ⟨_, hr, hop, h⟩
  | mode h hmode =>
    exact iff_of_false nofun fun ⟨r, hr, hop, hne⟩ =>
      hne (match_of_row svfcfgRow_mem hr (opField_of_svfcfgRow_match h) hop h)
  | @accepted i h =>
    subst h
    obtain ⟨hrow, hrowop, hmatch⟩ := rowMatches i
    exact iff_of_false nofun fun ⟨r, hr, hop, hne⟩ =>
      hne (match_of_row hrow hr hrowop hop hmatch)

theorem Decodes.reservedMode_iff (hd : Decodes w d) :
    d = .illegal .reservedMode ↔
      w &&& svfcfgRow.mask = svfcfgRow.pattern ∧ modeField w = 3#2 := by
  cases hd with
  | noRow h =>
    exact iff_of_false nofun fun ⟨hm, _⟩ => h _ svfcfgRow_mem (opField_of_svfcfgRow_match hm)
  | reserved hr hop h =>
    exact iff_of_false nofun fun ⟨hm, _⟩ =>
      h (match_of_row svfcfgRow_mem hr (opField_of_svfcfgRow_match hm) hop hm)
  | mode h hmode => exact iff_of_true rfl ⟨h, hmode⟩
  | accepted h =>
    subst h
    exact iff_of_false nofun fun ⟨hm, hthree⟩ =>
      modeField_encode_ne_three (opField_of_svfcfgRow_match hm) hthree

theorem Decodes.ne_unitRange (hd : Decodes w d) : d ≠ .illegal .unitRange := by
  cases hd <;> nofun

/-- A command is read from its own word alone. -/
theorem Decodes.encode_eq {i : Instr} (hd : Decodes w (.ok i)) : encode i = w := by
  cases hd with
  | accepted h => exact h

end

/-- Settles O42: the opcode selects the command's row and the fields read back are its operands. -/
theorem decodeEncodeAgree : Obligations.DecodeEncodeAgree := decode_encode

/-- Settles O43: of the decoder's answers, a command is only ever the one whose word was read. -/
theorem encodeDecodeAgree : Obligations.EncodeDecodeAgree := fun w _ h =>
  (h ▸ decodes w).encode_eq

/-- Settles O44: each cause belongs to one answer of the decoder, and the map says which. -/
theorem decoderFollowsOpcodeMap : Obligations.DecoderFollowsOpcodeMap := fun w =>
  have hd := decodes w
  ⟨hd.illegalOpcode_iff, hd.reservedField_iff, hd.reservedMode_iff, hd.ne_unitRange⟩

/-- Settles O45: each word written out is the encoding of its command. -/
theorem sampleWordsDecode : Obligations.SampleWordsDecode :=
  ⟨decode_encode (.svfproc 4 0 1), decode_encode (.svfcfg 1 .highpass 1 2 3),
    decode_encode (.luih 1 0x3F80#16), decode_encode (.oscmode 2 3), decode_encode (.white 3 0),
    decode_encode (.dtick 4 0 3 2), decode_encode (.rescale 0 1 2 4)⟩

end Sys2Proof
end

section
/-! PROOFS. The pseudo-instructions LI and CLR (spec/30_encoding.md R91,
spec/45_register_moves.md R191, R192). -/

namespace Sys2Proof.Machine

theorem exec_luih (rd : Reg) (imm16 : BitVec 16) (s : State) :
    exec (.luih rd imm16) s = .next (s.writeReg rd (upperHalf imm16)) := rfl

theorem exec_orlo (rd : Reg) (imm16 : BitVec 16) (s : State) :
    exec (.orlo rd imm16) s = .next (s.writeReg rd (s.readReg rd ||| zext32 imm16)) := rfl

theorem execAll_cons {i : Instr} {s s' : State} (h : exec i s = .next s') (rest : List Instr) :
    execAll (i :: rest) s = execAll rest s' := by
  simp only [execAll, h]

theorem execAll_singleton {i : Instr} {s s' : State} (h : exec i s = .next s') :
    execAll [i] s = .next s' := execAll_cons h []

theorem writeReg_writeReg_same (s : State) (i : Reg) (x y : Word) :
    (s.writeReg i x).writeReg i y = s.writeReg i y := by
  simp only [State.writeReg, setSlot_setSlot_same]

/-- ORLO's immediate lands on the zeros LUIH left (R191, R192). -/
theorem upperHalf_or_zext32 (hi lo : BitVec 16) : upperHalf hi ||| zext32 lo = hi ++ lo := by
  have hzext : zext32 lo = 0#16 ++ lo := BitVec.setWidth_eq_append (by decide)
  calc upperHalf hi ||| zext32 lo
    _ = (hi ++ 0#16) ||| (0#16 ++ lo) := by rw [upperHalf, hzext]
    _ = (hi ||| 0#16) ++ (0#16 ||| lo) := BitVec.or_append
    _ = hi ++ lo := by rw [BitVec.or_zero, BitVec.zero_or]

theorem halves_append (b : Word) : b.extractLsb' 16 16 ++ b.extractLsb' 0 16 = b :=
  BitVec.extractLsb'_append_extractLsb'

/-- LI: the upper half of the pattern, then the lower half where it is not already there. -/
theorem execAll_expandLi (rd : Reg) (b : Word) (s : State) :
    execAll (expandLi rd b) s = .next (s.writeReg rd b) := by
  unfold expandLi
  split
  · next hlow =>
    rw [execAll_singleton (exec_luih _ _ _), upperHalf, ← hlow, halves_append]
  · rw [execAll_cons (exec_luih _ _ _), execAll_singleton (exec_orlo _ _ _),
      readReg_writeReg_same, writeReg_writeReg_same, upperHalf_or_zext32, halves_append]

end Sys2Proof.Machine

namespace Sys2Proof

open Machine

/-- Settles O5: CLR is LUIH of zero, which leaves zeros in both halves. -/
theorem liLoadsPattern : Obligations.LiLoadsPattern := fun rd b s =>
  ⟨execAll_expandLi rd b s, execAll_singleton (exec_luih rd 0#16 s)⟩

end Sys2Proof
end

section
/-! PROOFS. A command that names a unit the block does not have is rejected (spec/30_encoding.md R86,
R92, spec/60_exceptions.md R202, R203). -/

namespace Sys2Proof

open Machine

/-- Every command that can be out of range makes the unit check first. -/
theorem exec_outOfRange {i : Instr} {s : State} (h : unitInRange s.cfg i = false) :
    exec i s = .next (raiseIllegal .unitRange (encode i) s) := by
  cases i
  case nop | luih | orlo | mov | rescale | resolve | xfade => cases h
  all_goals exact withUnit_outOfRange h

/-- Settles O48: the unit check of R86 stands at the head of every command that names a unit. -/
theorem unitOutOfRangeIsRejected : Obligations.UnitOutOfRangeIsRejected := fun i s h =>
  exec_outOfRange ((unitInRange_eq_wellFormed s.cfg i).trans h)

end Sys2Proof
end

section
/-! PROOFS. The two filter commands on a unit the block has (spec/40_svf.md R100 to R103): what SVFCFG
records, and the sample step of SVFPROC with the tap its mode returns. -/

namespace Sys2Proof.Machine

theorem exec_svfcfg_inRange {u : UnitIx} {s : State} (hu : u.toNat < s.cfg.numSvf)
    (mode : FilterMode) (rs1 rs2 rs3 : Reg) :
    exec (.svfcfg u mode rs1 rs2 rs3) s = .next (s.setSvf u
      (svfConfigure s.cfg (s.svfAt u) mode (s.readReg rs1) (s.readReg rs2) (s.readReg rs3))) :=
  withUnit_inRange (decide_eq_true hu)

theorem exec_svfproc_inRange {u : UnitIx} {s : State} (hu : u.toNat < s.cfg.numSvf) (rd rs1 : Reg) :
    exec (.svfproc rd u rs1) s = .next
      ((s.setSvf u (svfAdvance s.cfg (s.svfAt u) (svfTaps s.cfg (s.svfAt u) (s.readReg rs1)))).writeReg
        rd (svfSelect (s.svfAt u).mode (svfTaps s.cfg (s.svfAt u) (s.readReg rs1)))) :=
  withUnit_inRange (decide_eq_true hu)

/-- Every field of a configured unit: six are new, the two memories are the old ones (R101). -/
theorem svfConfigure_eq (c : Config) (p : SvfUnit) (mode : FilterMode) (fc res fs : Word) :
    svfConfigure c p mode fc res fs =
      ⟨mode, fc, res, fs, svfGain c fc fs, svfDamping c res, p.z1, p.z2⟩ := rfl

@[simp] theorem svfSelect_lowpass (t : SvfTaps) : svfSelect .lowpass t = t.lp := rfl
@[simp] theorem svfSelect_highpass (t : SvfTaps) : svfSelect .highpass t = t.hp := rfl
@[simp] theorem svfSelect_bandpass (t : SvfTaps) : svfSelect .bandpass t = t.bp := rfl

end Sys2Proof.Machine

namespace Sys2Proof

open Machine

/-- Settles O6: the unit becomes what `svfConfigure` makes of it, with the gain and the damping written
out. -/
theorem svfcfgConfiguresUnit : Obligations.SvfcfgConfiguresUnit := by
  intro u mode rs1 rs2 rs3 s hu
  rw [exec_svfcfg_inRange hu, svfConfigure_eq, svfGain, svfDamping, F32.pi32, F32.one]

/-- Settles O7: the memories follow from the taps alone, so only the written word depends on the mode. -/
theorem svfprocFiltersSample : Obligations.SvfprocFiltersSample := by
  intro rd u rs1 s hu add mul p twoR a den hp bp lp
  have htaps : svfTaps s.cfg p (s.readReg rs1) = ⟨hp, bp, lp⟩ := rfl
  have hunit : svfAdvance s.cfg p ⟨hp, bp, lp⟩ =
      { p with z1 := add (mul p.g hp) bp, z2 := add (mul p.g bp) lp } := rfl
  rw [exec_svfproc_inRange hu, htaps, hunit]
  cases p.mode with
  | lowpass => rw [svfSelect_lowpass]
  | highpass => rw [svfSelect_highpass]
  | bandpass => rw [svfSelect_bandpass]

end Sys2Proof
end

section
/-! PROOFS. The generator and the three pink-noise commands on a unit the block has
(spec/41_pink_noise.md R120 to R125). -/

namespace Sys2Proof.Machine

theorem exec_pseed_inRange {u : UnitIx} {s : State} (hu : u.toNat < s.cfg.numPink) (rs1 : Reg) :
    exec (.pseed u rs1) s =
      .next (s.setPink u (seedPink s.cfg (s.pinkAt u) (s.readReg rs1))) :=
  withUnit_inRange (decide_eq_true hu)

/-- The state with unit `u` replaced by `p` and the sum of its taps in `rd`: what PNEXT leaves. -/
def pnextLeaves (s : State) (rd : Reg) (u : UnitIx) (p : PinkUnit) : State :=
  (s.setPink u p).writeReg rd (pinkSum s.cfg p.taps)

theorem exec_pnext_inRange {u : UnitIx} {s : State} (hu : u.toNat < s.cfg.numPink) (rd : Reg) :
    exec (.pnext rd u) s = .next (pnextLeaves s rd u (pinkAdvance s.cfg (s.pinkAt u))) :=
  withUnit_inRange (decide_eq_true hu)

theorem exec_white_inRange {u : UnitIx} {s : State} (hu : u.toNat < s.cfg.numPink) (rd : Reg) :
    exec (.white rd u) s = .next
      ((s.setPink u { s.pinkAt u with rng := xorshift32 (s.pinkAt u).rng }).writeReg rd
        (whiteValue s.cfg (xorshift32 (s.pinkAt u).rng))) :=
  withUnit_inRange (decide_eq_true hu)

/-- Five draws in order leave nothing of the old taps. -/
theorem set_five_taps {α : Type} (t : Vector α 5) (a b c d e : α) :
    ((((t.set 0 a).set 1 b).set 2 c).set 3 d).set 4 e = #v[a, b, c, d, e] := by
  ext j hj
  interval_cases j <;> simp

/-- Seeding draws the five taps from five successive generator words (R123). -/
theorem seedPink_taps (c : Config) (p : PinkUnit) (seed : Word) :
    let r1 := xorshift32 (if seed = 0#32 then defaultSeed else seed)
    let r2 := xorshift32 r1
    let r3 := xorshift32 r2
    let r4 := xorshift32 r3
    let r5 := xorshift32 r4
    (seedPink c p seed).taps =
      #v[tapValue c r1, tapValue c r2, tapValue c r3, tapValue c r4, tapValue c r5] :=
  set_five_taps p.taps _ _ _ _ _

theorem PinkUnit.ext_fields {p q : PinkUnit} (hcount : p.count = q.count) (htaps : p.taps = q.taps)
    (hrng : p.rng = q.rng) : p = q := by
  cases p; cases q; simp_all

/-- The top 24 bits of a word, by shift and by division. -/
theorem toNat_topBits (r : Word) : (r >>> 8).toNat = r.toNat / 2 ^ 8 := by
  rw [BitVec.toNat_ushiftRight, Nat.shiftRight_eq_div_pow]

theorem unitFraction_eq (c : Config) (r : Word) :
    unitFraction c r = fmul c (F32.ofNat (r >>> 8).toNat) 0x33800000#32 := by
  rw [toNat_topBits]
  rfl

theorem tapValue_eq (c : Config) (r : Word) :
    tapValue c r = fmul c (unitFraction c r) (fdiv c c.pinkRange 0x40A00000#32) := rfl

theorem whiteValue_eq (c : Config) (r : Word) :
    whiteValue c r = fsub c (fmul c (unitFraction c r) 0x40000000#32) 0x3F800000#32 := rfl

end Sys2Proof.Machine

namespace Sys2Proof

open Machine

/-- Settles O9: the seeded unit field by field. -/
theorem pseedDrawsFiveTaps : Obligations.PseedDrawsFiveTaps := by
  intro u rs1 s hu seed r1 r2 r3 r4 r5
  rw [exec_pseed_inRange hu]
  congr 2
  exact PinkUnit.ext_fields (seedPink_count _ _ _) (seedPink_taps _ _ _) (seedPink_rng _ _ _)

/-- Settles O11: the written word is the white draw of the advanced generator. -/
theorem whiteReturnsSample : Obligations.WhiteReturnsSample := by
  intro rd u s hu r
  rw [exec_white_inRange hu, whiteValue_eq, unitFraction_eq]

/-- Settles O12: each of the three steps keeps a word nonzero. -/
theorem xorshiftStepsAndStaysNonzero : Obligations.XorshiftStepsAndStaysNonzero := fun _ =>
  ⟨rfl, xorshift32_ne_zero⟩

end Sys2Proof
end

section
/-! PROOFS. The draws of a pink unit are exact (spec/41_pink_noise.md R121, R122, spec/00_scope.md R9):
every intermediate value has a significand of at most 24 bits, and rounding keeps such a value. -/

namespace Sys2Proof.F32

/-! ### Rounding a value of the grid -/

/-- A significand of 24 bits at any step of the grid is the magnitude of a finite pattern. -/
theorem representable_mul_two_pow {n k : Nat} (hn : n ≤ 2 ^ 24) (hk : k < 253) :
    Representable (n * 2 ^ k) := by
  obtain ⟨m, hm⟩ := exists_magUnits_eq k hn
  refine ⟨m, magUnits_strictMono.lt_iff_lt.mp ?_, hm⟩
  calc magUnits m = n * 2 ^ k := hm
    _ ≤ 2 ^ 24 * 2 ^ k := Nat.mul_le_mul_right _ hn
    _ < 2 ^ 24 * 2 ^ 253 :=
      Nat.mul_lt_mul_of_pos_left (Nat.pow_lt_pow_right (by omega) hk) (by omega)
    _ = magUnits 0x7F800000 := magUnits_inf.symm

/-- A finite magnitude with either sign is a value. -/
theorem Representable.exists_units_eq {n : Int} (h : Representable n.natAbs) :
    ∃ z, isFinite z = true ∧ units z = n := by
  obtain ⟨hfin, hmag⟩ := round_representable (decide (n < 0)) h
  refine ⟨_, hfin, ?_⟩
  rw [units_eq, sign_round, hmag]
  simp only [decide_eq_true_iff]
  split <;> omega

/-- A correctly rounded value of the grid is that value itself (R9). -/
theorem RoundsTo.exact {n : Int} {den : Nat} {r : Word} (hden : 0 < den)
    (h : RoundsTo (n * den) den r) (hn : Representable n.natAbs) :
    isFinite r = true ∧ units r = n := by
  obtain ⟨z, hz, rfl⟩ := hn.exists_units_eq
  cases hr : isFinite r with
  | true =>
    rw [RoundsTo, if_pos hr] at h
    obtain ⟨-, hnear, -⟩ := h
    have hzero : |units r * den - units z * den| ≤ 0 := by simpa using hnear z hz
    have heq : units r * (den : Int) = units z * den := sub_eq_zero.mp (abs_nonpos_iff.mp hzero)
    exact ⟨rfl, mul_right_cancel₀ (by exact_mod_cast hden.ne') heq⟩
  | false =>
    rw [RoundsTo, hr, if_neg (by decide)] at h
    obtain ⟨-, hover, -⟩ := h
    rw [abs_mul, Int.abs_eq_natAbs, natAbs_units, Nat.abs_cast] at hover
    have hlt := Nat.mul_lt_mul_of_pos_right (magUnits_lt_overflowAt hz) hden
    exact absurd (by exact_mod_cast hover) (not_le.mpr hlt)

section
variable (nan : Word) {a b : Word} (ha : isFinite a = true) (hb : isFinite b = true) {n : Int}
  (hn : Representable n.natAbs)
include ha hb hn

/-- A product that is on the grid is exact. -/
theorem mul_exact (h : units a * units b = n * 2 ^ 149) :
    isFinite (mul nan a b) = true ∧ units (mul nan a b) = n := by
  have hround := roundsTo_mul nan ha hb
  rw [h] at hround
  exact RoundsTo.exact (den := 2 ^ 149) (Nat.two_pow_pos _) (by exact_mod_cast hround) hn

/-- A difference that is on the grid is exact. -/
theorem sub_exact (h : units a - units b = n) :
    isFinite (sub nan a b) = true ∧ units (sub nan a b) = n := by
  have hround := roundsTo_add nan ha ((isFinite_neg b).trans hb)
  rw [units_neg, ← sub_eq_add_neg, h, ← sub] at hround
  exact RoundsTo.exact one_pos (by rwa [Nat.cast_one, mul_one]) hn

end

/-! ### Values of the named constants -/

theorem units_twoM24 : units twoM24 = 2 ^ 125 := by decide +kernel
theorem units_one : units one = 2 ^ 149 := by decide +kernel
theorem units_two : units two = 2 ^ 150 := by decide +kernel

/-- Five over five is one. -/
theorem div_five_five (nan : Word) : isFinite (div nan five five) = true ∧
    units (div nan five five) = 2 ^ 149 := by
  have hfive : units five = 5 * 2 ^ 149 := by decide +kernel
  have hround := roundsTo_div nan (a := five) (b := five) (by decide) (by decide) (by decide)
  have hnum : units five * 2 ^ 149 * (units five).sign = 2 ^ 149 * (units five).natAbs := by
    rw [hfive]; decide +kernel
  rw [hnum] at hround
  refine RoundsTo.exact (by rw [hfive]; decide +kernel) hround ?_
  exact representable_mul_two_pow (n := 1) (k := 149) (by omega) (by omega)

end Sys2Proof.F32

namespace Sys2Proof.Machine

open F32

theorem topBits_lt (r : Word) : (r >>> 8).toNat < 2 ^ 24 := by
  have := r.isLt
  rw [toNat_topBits]
  omega

/-- `n * 2^-24` is exact (R121). -/
theorem unitFraction_exact (c : Config) (r : Word) : isFinite (unitFraction c r) = true ∧
    units (unitFraction c r) = ((r >>> 8).toNat * 2 ^ 125 : Nat) := by
  have hn := (topBits_lt r).le
  obtain ⟨hfin, -, hunits⟩ := ofNat_exact hn
  rw [unitFraction_eq]
  refine mul_exact _ hfin (by decide) (representable_mul_two_pow hn (by omega)) ?_
  rw [hunits, ← twoM24, units_twoM24]
  push_cast
  ring

/-- With PINK_RANGE 5.0 the tap is the fraction itself (R121). -/
theorem tapValue_exact {c : Config} (hc : c.pinkRange = 0x40A00000#32) (r : Word) :
    isFinite (tapValue c r) = true ∧
      units (tapValue c r) = ((r >>> 8).toNat * 2 ^ 125 : Nat) := by
  obtain ⟨hfin, hunits⟩ := unitFraction_exact c r
  obtain ⟨hfin1, hunits1⟩ := div_five_five c.nanResult
  rw [tapValue_eq, hc]
  refine mul_exact _ hfin hfin1 (representable_mul_two_pow (topBits_lt r).le (by omega)) ?_
  rw [hunits, hunits1]

/-- Doubling the fraction is exact, and so is taking 1 from it (R122). -/
theorem whiteValue_exact (c : Config) (r : Word) : isFinite (whiteValue c r) = true ∧
    units (whiteValue c r) = (((r >>> 8).toNat : Int) - 2 ^ 23) * 2 ^ 126 := by
  have hlt := topBits_lt r
  obtain ⟨hfin, hunits⟩ := unitFraction_exact c r
  obtain ⟨hfin2, hunits2⟩ : isFinite (mul c.nanResult (unitFraction c r) two) = true ∧
      units (mul c.nanResult (unitFraction c r) two) = ((r >>> 8).toNat * 2 ^ 126 : Nat) := by
    refine mul_exact _ hfin (by decide) (representable_mul_two_pow hlt.le (by omega)) ?_
    rw [hunits, units_two]
    push_cast
    ring
  refine sub_exact _ hfin2 (by decide) ?_ ?_
  · rw [Int.natAbs_mul, Int.natAbs_pow]
    exact representable_mul_two_pow (by omega) (by omega)
  · rw [hunits2, units_one]
    push_cast
    ring

end Sys2Proof.Machine

namespace Sys2Proof

open Machine

/-- Settles O13: the fraction is exact, and 5.0 makes the other factor 1. -/
theorem tapScalesTopBits : Obligations.TapScalesTopBits := by
  intro c r u01
  have hu01 : unitFraction c r = u01 := unitFraction_eq c r
  obtain ⟨hfin, hunits⟩ := unitFraction_exact c r
  rw [hu01] at hfin hunits
  exact ⟨hfin, hunits, by rw [tapValue_eq, hu01], fun hc => tapValue_exact hc r⟩

/-- Settles O14: neither the doubling nor the difference rounds. -/
theorem whiteDrawIsExact : Obligations.WhiteDrawIsExact := whiteValue_exact

end Sys2Proof
end

section
/-! PROOFS. The key schedule of PNEXT (spec/41_pink_noise.md R124, R126): each step of the count flips
one bit of the Gray key, so one tap is redrawn, and 32 steps flip every bit. -/

namespace Sys2Proof.Machine

/-! ### The key -/

/-- The key bit that flips when the count steps on from `n`: the lowest clear bit of `n` (which is
`ctz(n + 1)`), and bit 4 where there is none below it (R126). -/
def flippedBit (n : BitVec 5) : Fin 5 :=
  if n.getLsbD 0 = false then 0
  else if n.getLsbD 1 = false then 1
  else if n.getLsbD 2 = false then 2
  else if n.getLsbD 3 = false then 3
  else 4

/-- Consecutive keys differ in that bit alone. -/
theorem gray_xor_gray_succ (n : BitVec 5) :
    gray n ^^^ gray (n + 1#5) = BitVec.twoPow 5 (flippedBit n).val := by
  revert n; decide

theorem flippedBit_eq_ctz (n : BitVec 5) : if n.toNat = 31 then (flippedBit n).val = 4
    else 2 ^ (flippedBit n).val ∣ n.toNat + 1 ∧ ¬ 2 ^ ((flippedBit n).val + 1) ∣ n.toNat + 1 := by
  revert n; decide

theorem flippedBit_surjective : Function.Surjective flippedBit := by decide

/-- 32 steps from any count flip every bit of the key. -/
theorem exists_step_flipping (n : BitVec 5) (j : Fin 5) :
    ∃ m < 32, flippedBit (n + BitVec.ofNat 5 m) = j := by
  obtain ⟨k, rfl⟩ := flippedBit_surjective j
  refine ⟨(k - n).toNat, (k - n).isLt, ?_⟩
  rw [BitVec.ofNat_toNat, BitVec.setWidth_eq, BitVec.add_comm, BitVec.sub_add_cancel]

/-! ### One step -/

/-- A key difference of one bit redraws that tap only. -/
theorem redrawTap_twoPow (c : Config) (p : PinkUnit) (i j : Fin 5) :
    redrawTap c (BitVec.twoPow 5 i.val) p j = if j = i then drawTap c p j else p := by
  simp [redrawTap, Fin.ext_iff]

theorem pinkAdvance_eq (c : Config) (p : PinkUnit) :
    pinkAdvance c p = drawTap c { p with count := p.count + 1#5 } (flippedBit p.count) := by
  simp only [pinkAdvance, gray_xor_gray_succ, List.foldl, redrawTap_twoPow]
  generalize flippedBit p.count = i
  fin_cases i <;> rfl

@[simp] theorem pinkAdvance_count (c : Config) (p : PinkUnit) :
    (pinkAdvance c p).count = p.count + 1#5 := by
  rw [pinkAdvance_eq, drawTap_count]

@[simp] theorem pinkAdvance_rng (c : Config) (p : PinkUnit) :
    (pinkAdvance c p).rng = xorshift32 p.rng := by
  rw [pinkAdvance_eq, drawTap_rng]

@[simp] theorem pinkAdvance_taps (c : Config) (p : PinkUnit) :
    (pinkAdvance c p).taps = p.taps.set (flippedBit p.count).val (tapValue c (xorshift32 p.rng))
      (flippedBit p.count).isLt := by
  rw [pinkAdvance_eq, drawTap_taps]

/-! ### Many steps -/

theorem iterate_pinkAdvance_count (c : Config) (p : PinkUnit) (k : Nat) :
    ((pinkAdvance c)^[k] p).count = p.count + BitVec.ofNat 5 k := by
  induction k with
  | zero => simp
  | succ k ih =>
    rw [Function.iterate_succ_apply', pinkAdvance_count, ih, BitVec.add_assoc, BitVec.ofNat_add]

/-- `p` and `q` have the same count, generator and taps, but for the taps outside `drawn`. -/
structure AgreeOn (drawn : Fin 5 → Prop) (p q : PinkUnit) : Prop where
  count : p.count = q.count
  rng : p.rng = q.rng
  taps : ∀ j : Fin 5, drawn j → p.taps[j] = q.taps[j]

theorem AgreeOn.eq {p q : PinkUnit} {drawn : Fin 5 → Prop} (h : AgreeOn drawn p q)
    (hall : ∀ j, drawn j) : p = q :=
  PinkUnit.ext_fields h.count (Vector.ext fun j hj => h.taps ⟨j, hj⟩ (hall _)) h.rng

/-- The tap a step redraws is the same from then on. -/
theorem AgreeOn.pinkAdvance {p q : PinkUnit} {drawn drawn' : Fin 5 → Prop} (c : Config)
    (h : AgreeOn drawn p q) (hdrawn : ∀ j, drawn' j → j ≠ flippedBit p.count → drawn j) :
    AgreeOn drawn' (pinkAdvance c p) (pinkAdvance c q) where
  count := by rw [pinkAdvance_count, pinkAdvance_count, h.count]
  rng := by rw [pinkAdvance_rng, pinkAdvance_rng, h.rng]
  taps j hj := by
    simp only [pinkAdvance_taps, ← h.count, ← h.rng, Fin.getElem_fin, Vector.getElem_set]
    split
    · rfl
    · next hne => exact h.taps j (hdrawn j hj fun heq => hne (congrArg Fin.val heq.symm))

/-- After `k` steps the taps of the bits flipped so far agree. -/
theorem AgreeOn.iterate {p q : PinkUnit} (c : Config) (h : AgreeOn (fun _ => False) p q) (k : Nat) :
    AgreeOn (fun j => ∃ m < k, flippedBit (p.count + BitVec.ofNat 5 m) = j)
      ((Machine.pinkAdvance c)^[k] p) ((Machine.pinkAdvance c)^[k] q) := by
  induction k with
  | zero => exact ⟨h.count, h.rng, fun j ⟨m, hm, _⟩ => absurd hm m.not_lt_zero⟩
  | succ k ih =>
    rw [Function.iterate_succ_apply', Function.iterate_succ_apply']
    refine ih.pinkAdvance c fun j ⟨m, hm, hj⟩ hne => ⟨m, ?_, hj⟩
    refine lt_of_le_of_ne (Nat.lt_succ_iff.mp hm) fun hmk => hne ?_
    rw [iterate_pinkAdvance_count, ← hj, hmk]

/-- 32 steps leave nothing of the taps they found (R124). -/
theorem iterate_pinkAdvance_taps (c : Config) (p : PinkUnit) (taps : Vector Word 5) :
    (pinkAdvance c)^[32] { p with taps := taps } = (pinkAdvance c)^[32] p := by
  have hstart : AgreeOn (fun _ => False) { p with taps := taps } p := ⟨rfl, rfl, fun _ => False.elim⟩
  exact (hstart.iterate c 32).eq (exists_step_flipping p.count)

/-! ### Sequences of PNEXT -/

theorem setPink_setPink_same (s : State) (u : UnitIx) (p q : PinkUnit) :
    (s.setPink u p).setPink u q = s.setPink u q := by
  simp only [State.setPink, setSlot_setSlot_same]

theorem setPink_writeReg (s : State) (rd : Reg) (v : Word) (u : UnitIx) (p : PinkUnit) :
    (s.writeReg rd v).setPink u p = (s.setPink u p).writeReg rd v := rfl

/-- A later PNEXT on the same unit and register overwrites what an earlier one left. -/
theorem pnextLeaves_pnextLeaves (s : State) (rd : Reg) (u : UnitIx) (p q : PinkUnit) :
    pnextLeaves (pnextLeaves s rd u p) rd u q = pnextLeaves s rd u q := by
  simp only [pnextLeaves, setPink_writeReg, setPink_setPink_same, writeReg_writeReg_same,
    writeReg_cfg, setPink_cfg]

@[simp] theorem pnextLeaves_cfg (s : State) (rd : Reg) (u : UnitIx) (p : PinkUnit) :
    (pnextLeaves s rd u p).cfg = s.cfg := rfl

theorem pnextLeaves_setPink (s : State) (rd : Reg) (u : UnitIx) (p q : PinkUnit) :
    pnextLeaves (s.setPink u p) rd u q = pnextLeaves s rd u q := by
  simp only [pnextLeaves, setPink_setPink_same, setPink_cfg]

@[simp] theorem pinkAt_pnextLeaves (s : State) (rd : Reg) (u : UnitIx) (p : PinkUnit) :
    (pnextLeaves s rd u p).pinkAt u = p := by
  rw [pnextLeaves, pinkAt_writeReg, pinkAt_setPink_same]

/-- A positive number of PNEXT commands advances the unit as often and leaves the last sum. -/
theorem execAll_replicate_pnext (rd : Reg) (u : UnitIx) (k : Nat) :
    ∀ {s : State}, u.toNat < s.cfg.numPink →
      execAll (List.replicate (k + 1) (.pnext rd u)) s =
        .next (pnextLeaves s rd u ((pinkAdvance s.cfg)^[k + 1] (s.pinkAt u))) := by
  induction k with
  | zero => exact fun hu => execAll_singleton (exec_pnext_inRange hu rd)
  | succ k ih =>
    intro s hu
    have hrest := ih (s := pnextLeaves s rd u (pinkAdvance s.cfg (s.pinkAt u))) hu
    rw [pnextLeaves_pnextLeaves, pinkAt_pnextLeaves, pnextLeaves_cfg] at hrest
    rw [List.replicate_succ, execAll_cons (exec_pnext_inRange hu rd), hrest,
      Function.iterate_succ_apply _ (k + 1)]

end Sys2Proof.Machine

namespace Sys2Proof

open Machine

/-- Settles O10: the tap is that of the one key bit that flips. -/
theorem pnextRedrawsOneTap : Obligations.PnextRedrawsOneTap := by
  intro rd u s hu p r n
  refine ⟨flippedBit p.count, flippedBit_eq_ctz p.count, ?_⟩
  have hcount : BitVec.ofNat 5 ((n + 1) % 32) = p.count + 1#5 :=
    BitVec.eq_of_toNat_eq (by simp [n, BitVec.toNat_add])
  rw [exec_pnext_inRange hu, pinkAdvance_eq, hcount]
  rfl

/-- Settles O15: both runs leave the unit advanced 32 times, which is the same unit, and its sum. -/
theorem thirtyTwoPnextRedrawEveryTap : Obligations.ThirtyTwoPnextRedrawEveryTap := by
  intro rd u taps s hu
  refine ⟨pnextLeaves s rd u ((pinkAdvance s.cfg)^[32] (s.pinkAt u)),
    execAll_replicate_pnext rd u 31 hu, ?_, ?_⟩
  · rw [execAll_replicate_pnext rd u 31 (by simpa using hu), pinkAt_setPink_same, setPink_cfg,
      iterate_pinkAdvance_taps, pnextLeaves_setPink]
  · rw [pinkAt_pnextLeaves, iterate_pinkAdvance_count]
    exact BitVec.add_zero _

end Sys2Proof
end

section
/-! PROOFS. The oscillator commands on a unit the block has (spec/42_oscillator_bank.md R140 to R146):
the phase after a time step, the edge detector from each of its states, the sawtooth and the voices of a
bank. -/

namespace Sys2Proof.F32

/-! ### Rounding against a bound on the grid -/

/-- A value not above a finite pattern's is not rounded above it (R9). -/
theorem RoundsTo.units_le {num : Int} {den : Nat} {r z : Word} (hden : 0 < den)
    (h : RoundsTo num den r) (hz : isFinite z = true) (hle : num ≤ units z * den) :
    units r ≤ units z := by
  cases hr : isFinite r with
  | true =>
    rw [RoundsTo, if_pos hr] at h
    obtain ⟨-, hnear, -⟩ := h
    by_contra hlt
    have hstep : units z * den < units r * den :=
      mul_lt_mul_of_pos_right (not_le.mp hlt) (by exact_mod_cast hden)
    have hfurther := hnear z hz
    rw [abs_of_nonneg (by linarith), abs_of_nonneg (by linarith)] at hfurther
    linarith
  | false =>
    rw [RoundsTo, hr, if_neg (by decide)] at h
    obtain ⟨hinf, hover, hsign⟩ := h
    have hneg : num < 0 := by
      by_contra hpos
      have hbelow : units z * den < overflowAt * den :=
        mul_lt_mul_of_pos_right (by have := magUnits_lt_overflowAt hz; have := natAbs_units z; omega)
          (by exact_mod_cast hden)
      rw [abs_of_nonneg (not_lt.mp hpos)] at hover
      linarith
    have hmag : mag r = 0x7F800000 := of_decide_eq_true hinf
    rw [units_eq r, if_pos (hsign.mpr hneg), hmag]
    have := magUnits_lt_inf hz
    have := natAbs_units z
    omega

section
variable (nan : Word) {a b z : Word} (ha : isFinite a = true) (hb : isFinite b = true)
  (hz : isFinite z = true)
include ha hb hz

theorem units_add_le (h : units a + units b ≤ units z) : units (add nan a b) ≤ units z :=
  (roundsTo_add nan ha hb).units_le one_pos hz (by simpa using h)

theorem units_sub_le (h : units a - units b ≤ units z) : units (sub nan a b) ≤ units z :=
  units_add_le nan ha ((isFinite_neg b).trans hb) hz (by rwa [units_neg, ← sub_eq_add_neg])

end

/-- A value between zero and a finite one is finite. -/
theorem isFinite_of_units_le {v z : Word} (hz : isFinite z = true) (hv : 0 ≤ units v)
    (hle : units v ≤ units z) : isFinite v = true := by
  have hmag : magUnits (mag v) ≤ magUnits (mag z) := by
    rw [← natAbs_units, ← natAbs_units]
    omega
  rw [isFinite, decide_eq_true_iff] at *
  exact (magUnits_strictMono.le_iff_le.mp hmag).trans_lt hz

theorem ge_eq_false_of_units_lt {a b : Word} (h : units a < units b) : ge a b = false := by
  simp [ge, le, not_le.mpr h]

/-- What is at least a number is a number. -/
theorem units_le_of_ge {a b : Word} (h : ge a b = true) : units b ≤ units a := by
  simp only [ge, le, Bool.and_eq_true, decide_eq_true_iff] at h
  obtain ⟨-, hle⟩ := h
  exact hle

/-- The smaller of anything, a NaN too, and a number is not above the number (R13). -/
theorem units_minNum_le (a : Word) {b : Word} (hb : isNaN b = false) :
    units (minNum a b) ≤ units b := by
  cases ha : isNaN a with
  | true => rw [minNum, if_pos ha]
  | false =>
    rw [minNum_of_numbers ha hb]
    split
    · next hlt => exact hlt.le
    · exact le_rfl

/-- A sum that is not one of finite operands is the NaN result or one of its operands (R9, R11). -/
theorem add_not_finite_cases (nan : Word) {a b : Word} (h : isFinite a = false ∨ isFinite b = false) :
    add nan a b = nan ∨ add nan a b = a ∨ add nan a b = b := by
  obtain ha | ha | ha := classes a
  · exact .inl (add_nan _ _ _ (.inl ha))
  · obtain hb | hb | hb := classes b
    · exact .inl (add_nan _ _ _ (.inr hb))
    · rw [add_inf_inf nan ha hb]
      split <;> simp
    · exact .inr (.inl (add_inf_finite nan ha hb))
  · obtain hb | hb | hb := classes b
    · exact .inl (add_nan _ _ _ (.inr hb))
    · exact .inr (.inr (add_finite_inf nan ha hb))
    · simp [ha, hb] at h

end Sys2Proof.F32

namespace Sys2Proof.Machine

/-! ### The phase after a time step (R141) -/

/-- 1.5, which a phase below 1 and a step of at most a half do not pass. -/
def oneAndHalf : Word := 0x3FC00000#32

theorem units_phase_constants : F32.units F32.one + F32.units F32.half = F32.units oneAndHalf ∧
    F32.units oneAndHalf - F32.units F32.one = F32.units F32.half ∧
    F32.units F32.half < F32.units F32.one ∧ 0 < F32.units F32.one := by decide +kernel

theorem phaseOk_iff_not_ge_one (ph : Word) : phaseOk ph ↔ F32.ge ph F32.one = false := by
  refine ⟨fun h => ?_, phaseOk_of_not_ge_one⟩
  obtain hnan | hlt := h
  · exact F32.le_nan _ _ (.inr hnan)
  · simp only [F32.lt, Bool.and_eq_true, decide_eq_true_iff] at hlt
    obtain ⟨-, hlt⟩ := hlt
    exact F32.ge_eq_false_of_units_lt hlt

theorem units_lt_one_of_phaseOk {ph : Word} (h : phaseOk ph) (hfin : F32.isFinite ph = true) :
    F32.units ph < F32.units F32.one := by
  obtain hnan | hlt := h
  · rw [F32.isFinite_not_isNaN hfin] at hnan
    cases hnan
  · exact (F32.lt_iff (F32.isFinite_not_isNaN hfin) (by decide)).mp hlt

/-- The step is capped at half a cycle. -/
theorem units_phaseStep_le (c : Config) (freq dt : Word) :
    F32.units (phaseStep c freq dt) ≤ F32.units F32.half :=
  F32.units_minNum_le _ (by decide)

section
variable {c : Config} (hnan : F32.isNaN c.nanResult = true) {ph d : Word} (hph : phaseOk ph)
  (hd : F32.units d ≤ F32.units F32.half)
include hnan hph hd

/-- Where the loop turns, neither the phase nor the step is an infinity or a NaN, and their sum is at
most 1.5. -/
theorem units_advanced_phase_le (hge : F32.ge (fadd c ph d) F32.one = true) :
    F32.units (fadd c ph d) ≤ F32.units oneAndHalf := by
  obtain ⟨hsum, -, hhalf, -⟩ := units_phase_constants
  by_cases hfin : F32.isFinite ph = true ∧ F32.isFinite d = true
  · obtain ⟨hphFin, hdFin⟩ := hfin
    have hlt := units_lt_one_of_phaseOk hph hphFin
    exact F32.units_add_le _ hphFin hdFin (by decide) (by omega)
  · have hnotGe : F32.ge (fadd c ph d) F32.one = false := by
      rw [not_and_or, Bool.not_eq_true, Bool.not_eq_true] at hfin
      obtain h | h | h := F32.add_not_finite_cases c.nanResult hfin <;> rw [fadd, h]
      · exact F32.le_nan _ _ (.inr hnan)
      · exact (phaseOk_iff_not_ge_one ph).mp hph
      · exact F32.ge_eq_false_of_units_lt (by omega)
    rw [hnotGe] at hge
    cases hge

/-- One turn of the loop leaves at most a half. -/
theorem not_ge_one_after_turn (hge : F32.ge (fadd c ph d) F32.one = true) :
    F32.ge (fsub c (fadd c ph d) F32.one) F32.one = false := by
  obtain ⟨-, hdiff, hhalf, hpos⟩ := units_phase_constants
  have hle := units_advanced_phase_le hnan hph hd hge
  have hlow := F32.units_le_of_ge hge
  have hfin := F32.isFinite_of_units_le (by decide) (by omega) hle
  have hturn := F32.units_sub_le c.nanResult hfin (b := F32.one) (z := F32.half) (by decide) (by decide)
    (by omega)
  exact F32.ge_eq_false_of_units_lt (hturn.trans_lt hhalf)

end

/-- A loop that ends within one turn. -/
theorem wrapDown_once {c : Config} {ph : Word}
    (h : F32.ge ph F32.one = true → F32.ge (fsub c ph F32.one) F32.one = false) (n : Nat) :
    wrapDown c (n + 1) ph = some (if F32.ge ph F32.one then fsub c ph F32.one else ph) := by
  split
  · next hge => rw [wrapDown_turn c n ph hge, wrapDown_stop c n _ (h hge)]
  · next hge => exact wrapDown_stop c _ ph (by simpa using hge)

/-- From a phase below 1, or a NaN, the loop of OSCSTEP turns at most once (R141). -/
theorem phaseAfter_of_phaseOk {c : Config} (hnan : F32.isNaN c.nanResult = true) {p : OscUnit}
    (hp : phaseOk p.phase) (dt : Word) :
    phaseAfter c p dt =
      let ph := fadd c p.phase (phaseStep c p.freq dt)
      some (if F32.ge ph F32.one then fsub c ph F32.one else ph) :=
  wrapDown_once (not_ge_one_after_turn hnan hp (units_phaseStep_le c p.freq dt)) (2 ^ 24 + 3)

/-! ### The edge detector (R142) -/

/-- What a LOW detector becomes by firing: HIGH, with the phase at `+0.0`. -/
def fired (p : OscUnit) : OscUnit := { p with trig := .high, phase := F32.zero }

theorem oscTrigger_low (c : Config) {p : OscUnit} (h : p.trig = .low) (v : Word) :
    oscTrigger c p v = if F32.ge v c.resetHi then fired p else p := by
  simp only [oscTrigger, h, fired]

theorem oscTrigger_high (c : Config) {p : OscUnit} (h : p.trig = .high) (v : Word) :
    oscTrigger c p v = if F32.le v c.resetLo then { p with trig := .low } else p := by
  simp only [oscTrigger, h]

/-- A NaN signal meets neither threshold. -/
theorem oscTrigger_nan (c : Config) (p : OscUnit) {v : Word} (hv : F32.isNaN v = true) :
    oscTrigger c p v = p := by
  cases h : p.trig with
  | low => rw [oscTrigger_low c h, F32.ge, F32.le_nan _ _ (.inr hv), if_neg (by decide)]
  | high => rw [oscTrigger_high c h, F32.le_nan _ _ (.inl hv), if_neg (by decide)]

theorem setOsc_oscAt (s : State) (j : UnitIx) : s.setOsc j (s.oscAt j) = s := by
  have h : setSlot s.osc j (slot s.osc j) = s.osc := Vector.set_getElem_self _
  rw [State.setOsc, State.oscAt, h]

/-- A change of an oscillator under a condition, the oscillator as it was otherwise. -/
theorem setOsc_ite_oscAt (s : State) (j : UnitIx) (P : Prop) [Decidable P] (x : OscUnit) :
    s.setOsc j (if P then x else s.oscAt j) = if P then s.setOsc j x else s := by
  rw [apply_ite (s.setOsc j), setOsc_oscAt]

/-! ### The sawtooth and the mix (R143, R146) -/

theorem sawOut_eq (c : Config) (p : OscUnit) :
    sawOut c p =
      let v := if p.offset then fmul c 0x40000000#32 p.phase
        else fmul c 0x40000000#32 (fsub c p.phase (F32.rha p.phase))
      if p.invert then v ^^^ 0x80000000#32 else v := rfl

/-- The sawtooth at phase `+0.0` is `+0.0`. -/
theorem sawOut_fired (c : Config) {p : OscUnit} (ho : p.offset = false) (hi : p.invert = false) :
    sawOut c (fired p) = F32.zero := by
  have hrha : F32.rha F32.zero = F32.zero := by decide +kernel
  have hsub : fsub c F32.zero F32.zero = F32.zero := rfl
  have hmul : fmul c F32.two F32.zero = F32.zero := by
    obtain ⟨-, -, -, h, -⟩ := svfReset_coefficients c
    exact h
  simp only [sawOut, fired, ho, hi, hrha, hsub, hmul, Bool.false_eq_true, if_false]

/-- The voices of a bank by their numbers. -/
theorem voice_eq_ofNat (b : UnitIx) (n : BitVec 4) :
    voice b n = BitVec.ofNat 4 (3 * b.toNat + n.toNat) :=
  BitVec.eq_of_toNat_eq (by simp [voice])

/-! ### The commands on a unit the block has (R86) -/

section
variable {u : UnitIx} {s : State} (hu : u.toNat < 3 * s.cfg.numBank)
include hu

theorem exec_oscpitch_inRange (rs1 : Reg) : exec (.oscpitch u rs1) s =
    .next (s.setOsc u { s.oscAt u with freq := exp2_32 s.cfg (s.readReg rs1) }) :=
  withUnit_inRange (decide_eq_true hu)

theorem exec_oscstep_inRange {rs1 : Reg} {ph : Word}
    (h : phaseAfter s.cfg (s.oscAt u) (s.readReg rs1) = some ph) :
    exec (.oscstep u rs1) s = .next (s.setOsc u { s.oscAt u with phase := ph }) := by
  have hr : unitInRange s.cfg (.oscstep u rs1) = true := decide_eq_true hu
  exact (withUnit_inRange hr).trans (by rw [h])

theorem exec_oscrst_inRange (rs1 : Reg) : exec (.oscrst u rs1) s =
    .next (s.setOsc u (oscTrigger s.cfg (s.oscAt u) (s.readReg rs1))) :=
  withUnit_inRange (decide_eq_true hu)

theorem exec_oscsaw_inRange (rd : Reg) :
    exec (.oscsaw rd u) s = .next (s.writeReg rd (sawOut s.cfg (s.oscAt u))) :=
  withUnit_inRange (decide_eq_true hu)

theorem exec_oscmode_inRange (mode : BitVec 2) : exec (.oscmode u mode) s =
    .next (s.setOsc u { s.oscAt u with offset := mode.getLsbD 0, invert := mode.getLsbD 1 }) :=
  withUnit_inRange (decide_eq_true hu)

end

theorem exec_bankmix_inRange {b : UnitIx} {s : State} (hb : b.toNat < s.cfg.numBank)
    (rd rs1 rs2 : Reg) : exec (.bankmix rd b rs1 rs2) s = .next (s.writeReg rd
      (bankMix s.cfg (sawOut s.cfg (s.oscAt (voice b 0))) (sawOut s.cfg (s.oscAt (voice b 1)))
        (sawOut s.cfg (s.oscAt (voice b 2))) (s.readReg rs1) (s.readReg rs2))) :=
  withUnit_inRange (decide_eq_true hb)

end Sys2Proof.Machine

namespace Sys2Proof

open Machine

/-- Settles O17: the sum is at most 1.5 where it is at least 1, so one turn of the loop ends it. -/
theorem oscstepAdvancesPhase : Obligations.OscstepAdvancesPhase := by
  intro u rs1 s hu hnan hph d ph
  exact exec_oscstep_inRange hu (phaseAfter_of_phaseOk hnan hph (s.readReg rs1))

/-- Settles O22: a firing leaves the phase at `+0.0`, where the sawtooth is `+0.0`. -/
theorem firedOscillatorReadsZero : Obligations.FiredOscillatorReadsZero := by
  intro rd u rs1 s hu hlow hge ho hi
  have hfire : exec (.oscrst u rs1) s = .next (s.setOsc u (fired (s.oscAt u))) := by
    rw [exec_oscrst_inRange hu, oscTrigger_low _ hlow, if_pos hge]
  have hread : exec (.oscsaw rd u) (s.setOsc u (fired (s.oscAt u))) =
      .next ((s.setOsc u (fired (s.oscAt u))).writeReg rd F32.zero) := by
    rw [exec_oscsaw_inRange (by exact hu), oscAt_setOsc_same, sawOut_fired _ ho hi]
  refine ⟨_, (execAll_cons hfire _).trans (execAll_singleton hread), readReg_writeReg_same _ _ _, ?_⟩
  rw [oscAt_writeReg, oscAt_setOsc_same, fired, F32.zero]

/-- Settles O16. -/
theorem oscpitchSetsFrequency : Obligations.OscpitchSetsFrequency := fun _ rs1 _ hu =>
  exec_oscpitch_inRange hu rs1

/-- Settles O18: the detector's turn from each of its two states. -/
theorem oscrstFollowsHysteresis : Obligations.OscrstFollowsHysteresis := by
  intro u rs1 s hu o v
  rw [exec_oscrst_inRange hu]
  refine ⟨?_, fun hv => by rw [oscTrigger_nan _ _ hv, setOsc_oscAt]⟩
  cases htrig : o.trig with
  | low =>
    rw [oscTrigger_low s.cfg htrig, setOsc_ite_oscAt]
    simp only [true_and, reduceCtorEq, false_and, if_false]
    rfl
  | high =>
    rw [oscTrigger_high s.cfg htrig, setOsc_ite_oscAt]
    simp only [true_and, reduceCtorEq, false_and, if_false]
    rfl

/-- Settles O19. -/
theorem oscsawReadsWaveform : Obligations.OscsawReadsWaveform := by
  intro rd u s hu o v
  rw [exec_oscsaw_inRange hu, sawOut_eq]

/-- Settles O20: the two bits of a mode value, by number. -/
theorem oscmodeSetsModeBits : Obligations.OscmodeSetsModeBits := by
  intro u mode s hu
  obtain ⟨hoffset, hinvert⟩ : mode.getLsbD 0 = decide (mode.toNat % 2 = 1) ∧
      mode.getLsbD 1 = decide (mode.toNat / 2 = 1) := by
    revert mode
    decide
  rw [exec_oscmode_inRange hu, hoffset, hinvert]

/-- Settles O21: the three voices are those of the bank by number. -/
theorem bankmixWeighsVoices : Obligations.BankmixWeighsVoices := by
  intro rd b rs1 rs2 s hb _ add mul saw m t
  rw [exec_bankmix_inRange hb, voice_eq_ofNat, voice_eq_ofNat, voice_eq_ofNat]
  rfl

end Sys2Proof
end

section
/-! PROOFS. The delay commands on a unit the block has (spec/43_chorus_delay.md R160 to R163). -/

namespace Sys2Proof.Machine

/-- The unit DTICK reads: the input stored at the write index, which has not advanced yet (R163). -/
def storeInput (c : Config) (d : DelayUnit) (x : Word) : DelayUnit := memWrite c d d.w x

/-- DTICK's effect on a unit the block has (R163). The position is that of the unit before the store, which
changes the ring alone. -/
def dtickLeaves (s : State) (rd : Reg) (u : UnitIx) (x fs : Word) : State :=
  (s.setDly u (delayAdvance s.cfg (storeInput s.cfg (s.dlyAt u) x) fs)).writeReg rd
    (readInterp s.cfg (storeInput s.cfg (s.dlyAt u) x) (readPosition s.cfg (s.dlyAt u)))

section
variable {u : UnitIx} {s : State} (hu : u.toNat < s.cfg.numDelay)
include hu

theorem exec_dcfg_inRange (rs1 : Reg) : exec (.dcfg u rs1) s =
    .next (s.setDly u (delayConfigure (s.dlyAt u) (s.readReg rs1))) :=
  withUnit_inRange (decide_eq_true hu)

theorem exec_dsetf_inRange (rs1 : Reg) : exec (.dsetf u rs1) s =
    .next (s.setDly u { s.dlyAt u with lfoFreq := s.readReg rs1 }) :=
  withUnit_inRange (decide_eq_true hu)

theorem exec_dsetd_inRange (rs1 : Reg) : exec (.dsetd u rs1) s =
    .next (s.setDly u { s.dlyAt u with depth := s.readReg rs1 }) :=
  withUnit_inRange (decide_eq_true hu)

theorem exec_dtick_inRange (rd rs1 rs2 : Reg) : exec (.dtick rd u rs1 rs2) s =
    .next (dtickLeaves s rd u (s.readReg rs1) (s.readReg rs2)) :=
  withUnit_inRange (decide_eq_true hu)

end

/-- Every index of a restarted ring reads `+0.0` (R76, R160). -/
theorem memRead_delayConfigure (c : Config) (d : DelayUnit) (base : Word) (i : Int) :
    memRead c (delayConfigure d base) i = 0x00000000#32 := Memory.readWord_nil _

/-- What the advance after a sample sets: the phase and the write index (R163). -/
theorem delayAdvance_eq (c : Config) (d : DelayUnit) (fs : Word) :
    delayAdvance c d fs = { d with
      lfoPhase := wrapPhase c (fadd c d.lfoPhase (fdiv c d.lfoFreq fs))
      w := (d.w + 1) % 2 ^ c.log2Cap } := rfl

/-- The position with its operations in the order of R163. -/
theorem readPosition_eq (c : Config) (d : DelayUnit) :
    readPosition c d = fsub c (fsub c (F32.ofNat d.w) d.base)
      (fmul c d.depth (sin32 c (fmul c 0x40C90FDB#32 d.lfoPhase))) := rfl

end Sys2Proof.Machine

namespace Sys2Proof

open Machine

/-- Settles O23. -/
theorem dcfgRestartsLine : Obligations.DcfgRestartsLine := fun u rs1 s hu =>
  ⟨delayConfigure (s.dlyAt u) (s.readReg rs1), exec_dcfg_inRange hu rs1,
    memRead_delayConfigure s.cfg _ _, rfl, rfl, rfl, rfl, rfl⟩

/-- Settles O24. -/
theorem dsetCommandsSetOneField : Obligations.DsetCommandsSetOneField := fun _ rs1 _ hu =>
  ⟨exec_dsetf_inRange hu rs1, exec_dsetd_inRange hu rs1⟩

/-- Settles O25: the position does not depend on the store, and the advance sets two fields. -/
theorem dtickProcessesSample : Obligations.DtickProcessesSample := by
  intro rd u rs1 rs2 s hu old d m p
  rw [exec_dtick_inRange hu, dtickLeaves, delayAdvance_eq, readPosition_eq]
  rfl

end Sys2Proof
end

section
/-! PROOFS. The interpolated read and the wrapped phase (spec/43_chorus_delay.md R164, R165). -/

namespace Sys2Proof.F32

/-! ### When a rounded sum is zero -/

/-- An integer number of units other than zero is not rounded to zero: one unit is nearer (R9). -/
theorem RoundsTo.units_ne_zero {num : Int} {r : Word} (h : RoundsTo num 1 r) (hnum : num ≠ 0) :
    units r ≠ 0 := by
  intro hzero
  rw [RoundsTo, if_pos (isZero_isFinite (units_eq_zero_iff.mp hzero)), hzero] at h
  obtain ⟨-, hnear, -⟩ := h
  have hone : Representable num.sign.natAbs := by
    rw [Int.natAbs_sign_of_ne_zero hnum]
    exact representable_mul_two_pow (n := 1) (k := 0) (by omega) (by omega)
  obtain ⟨z, hz, hunits⟩ := hone.exists_units_eq
  have hle := hnear z hz
  rw [hunits, Int.abs_eq_natAbs, Int.abs_eq_natAbs] at hle
  obtain hneg | hpos := hnum.lt_or_gt
  · rw [Int.sign_eq_neg_one_of_neg hneg] at hle
    omega
  · rw [Int.sign_eq_one_of_pos hpos] at hle
    omega

section
variable (nan : Word) {a b : Word} (ha : isFinite a = true) (hb : isFinite b = true)
include ha hb

theorem units_add_eq_zero_iff : units (add nan a b) = 0 ↔ units a + units b = 0 := by
  refine ⟨fun h => by_contra fun hne => (roundsTo_add nan ha hb).units_ne_zero hne h, fun h => ?_⟩
  rw [units_eq_zero_iff, isZero, add_eq_round nan ha hb, mag_round, h]
  simp

/-- A difference of finite values compares equal to zero exactly where they are equal. -/
theorem eq_sub_zero_iff : eq (sub nan a b) zero = true ↔ units a = units b := by
  have hb' : isFinite (neg b) = true := (isFinite_neg b).trans hb
  have hnum : isNaN (sub nan a b) = false := by
    rw [sub, add_eq_round nan ha hb']
    exact isNaN_round _ _ _
  rw [eq_iff hnum (by decide), show units zero = 0 by decide, sub, units_add_eq_zero_iff nan ha hb',
    units_neg]
  omega

end

/-! ### The floor of a finite value -/

theorem toInt_floor32 {v : Word} (hv : isFinite v = true) : toInt (floor32 v) = floorInt v := by
  obtain ⟨-, hunits⟩ := floor32_finite hv
  rw [unit1_cast] at hunits
  exact toInt_of_units hunits

theorem floorInt_of_mem {v : Word} {n : Int} (hle : n * 2 ^ 149 ≤ units v)
    (hlt : units v < (n + 1) * 2 ^ 149) : floorInt v = n := by
  rw [floorInt, unit1_cast]
  omega

/-- An infinity is outside `[0, 1)`. -/
theorem units_outside_unit_of_isInf {v : Word} (h : isInf v = true) :
    units one ≤ units v ∨ units v < units zero := by
  have hmag : mag v = 0x7F800000 := of_decide_eq_true h
  have hinf : units one < (magUnits 0x7F800000 : Int) := by decide +kernel
  have hzero : units zero = 0 := by decide
  have hone := units_one
  rw [units_eq v, hmag]
  cases sign v <;> simp only [Bool.false_eq_true, if_false, if_true] <;> omega

end Sys2Proof.F32

namespace Sys2Proof.Machine

/-! ### The interpolated read (R164) -/

theorem readInterp_not_finite (c : Config) (d : DelayUnit) {p : Word} (h : F32.isFinite p = false) :
    readInterp c d p = F32.canonNaN := by
  simp [readInterp, h]

/-- The read at a finite position, by its floor: the stored word where the position is that integer. -/
theorem readInterp_finite (c : Config) (d : DelayUnit) {p : Word} (h : F32.isFinite p = true) :
    readInterp c d p =
      let b0 := memRead c d (F32.floorInt p)
      let b1 := memRead c d (F32.floorInt p + 1)
      if F32.units p = F32.floorInt p * 2 ^ 149 then b0
      else fadd c b0 (fmul c (fsub c p (F32.floor32 p)) (fsub c b1 b0)) := by
  obtain ⟨hfin, hunits⟩ := F32.floor32_finite h
  simp only [readInterp, h, F32.toInt_floor32 h, fsub, F32.eq_sub_zero_iff c.nanResult h hfin, hunits,
    F32.unit1_cast, Bool.not_true, Bool.false_eq_true, if_false]

theorem readInterp_integer (c : Config) (d : DelayUnit) {p : Word} {n : Int}
    (h : F32.isFinite p = true) (hp : F32.units p = n * 2 ^ 149) : readInterp c d p = memRead c d n := by
  have hfloor : F32.floorInt p = n := F32.floorInt_of_mem hp.ge (by omega)
  rw [readInterp_finite c d h, hfloor]
  exact if_pos hp

/-! ### The wrapped phase (R165) -/

theorem wrapPhase_outside (c : Config) {v : Word}
    (h : F32.ge v F32.one = true ∨ F32.lt v F32.zero = true) :
    wrapPhase c v =
      let v' := fsub c v (F32.floor32 v)
      if F32.ge v' F32.one then F32.zero else v' := by
  have hnum : F32.isNaN v = false := by
    rw [Bool.eq_false_iff]
    intro hn
    rw [F32.ge, F32.le_nan _ _ (.inr hn), F32.lt_nan _ _ (.inl hn)] at h
    simp at h
  simp only [wrapPhase, hnum, Bool.or_eq_true, h, Bool.false_eq_true, if_false, if_true]

/-- A NaN and a phase in `[0, 1)` are left alone. -/
theorem wrapPhase_of_lfoPhaseOk (c : Config) {v : Word} (h : lfoPhaseOk v) : wrapPhase c v = v := by
  obtain hn | ⟨hge, hlt⟩ := h
  · rw [wrapPhase, if_pos hn]
  · have hbelow : F32.ge v F32.one = false := (phaseOk_iff_not_ge_one v).mp (.inr hlt)
    have hnonneg : F32.lt v F32.zero = false := by
      simp [F32.lt, F32.units_le_of_ge hge]
    simp [wrapPhase, hbelow, hnonneg]

/-- An infinity less its floor, which is itself, is a NaN (R11, R13). -/
theorem wrapPhase_isInf {c : Config} (hnan : F32.isNaN c.nanResult = true) {v : Word}
    (h : F32.isInf v = true) : wrapPhase c v = c.nanResult := by
  have hnum := F32.isInf_not_isNaN h
  have hout : F32.ge v F32.one = true ∨ F32.lt v F32.zero = true := by
    rw [F32.ge_iff hnum (by decide), F32.lt_iff hnum (by decide)]
    exact F32.units_outside_unit_of_isInf h
  have hfloor : F32.floor32 v = v := by simp [F32.floor32, F32.isInf_not_isFinite h]
  have hsub : fsub c v v = c.nanResult := (F32.sub_inf_inf _ h h).trans (if_pos rfl)
  rw [wrapPhase_outside c hout, hfloor, hsub]
  exact if_neg (by simp [F32.ge, F32.le_nan _ _ (.inr hnan)])

end Sys2Proof.Machine

namespace Sys2Proof

open Machine

/-- Settles O27: the three cases are those of the read by the floor of the position. -/
theorem interpolatedReadFollowsRule : Obligations.InterpolatedReadFollowsRule := by
  intro c d p
  refine ⟨readInterp_not_finite c d, fun n => readInterp_integer c d, fun n h hlow hhigh => ?_⟩
  have hfloor : F32.floorInt p = n := F32.floorInt_of_mem hlow.le hhigh
  rw [readInterp_finite c d h, hfloor]
  exact if_neg hlow.ne'

/-- Settles O28. -/
theorem wrapPhaseFollowsRule : Obligations.WrapPhaseFollowsRule := fun c v hnan =>
  ⟨lfoPhaseOk_wrapPhase hnan v, wrapPhase_of_lfoPhaseOk c, wrapPhase_outside c, wrapPhase_isInf hnan⟩

end Sys2Proof
end

section
/-! PROOFS. An integer delay (spec/43_chorus_delay.md R163): with depth 0 the position is an integer below
2^24, exact in binary32, and the slot it names holds the sample of that age. -/

namespace Sys2Proof.F32

theorem representable_zero : Representable 0 :=
  representable_mul_two_pow (n := 0) (k := 0) (by omega) (by omega)

/-- A zero of either sign times a finite value is a zero. -/
theorem isZero_mul_left (nan : Word) {a b : Word} (ha : isZero a = true) (hb : isFinite b = true) :
    isZero (mul nan a b) = true := by
  obtain ⟨-, h⟩ := mul_exact nan (isZero_isFinite ha) hb (n := 0) representable_zero
    (by rw [units_eq_zero_iff.mpr ha]; omega)
  exact units_eq_zero_iff.mp h

/-- The difference of two integers of at most 24 bits is exact. -/
theorem sub_integers_exact (nan : Word) {a b : Word} {m n : Int} (ha : isFinite a = true)
    (hb : isFinite b = true) (hm : units a = m * 2 ^ 149) (hn : units b = n * 2 ^ 149)
    (hle : (m - n).natAbs ≤ 2 ^ 24) :
    isFinite (sub nan a b) = true ∧ units (sub nan a b) = (m - n) * 2 ^ 149 := by
  refine sub_exact nan ha hb ?_ (by rw [hm, hn, sub_mul])
  rw [Int.natAbs_mul, Int.natAbs_pow]
  exact representable_mul_two_pow hle (by omega)

end Sys2Proof.F32

namespace Sys2Proof.Machine

/-! ### Slots by age -/

/-- The slot written `age` ticks before the one to write next (R75, R163). -/
def slotOfAge (c : Config) (d : DelayUnit) (age : Nat) : Nat := (d.w + c.capacity - age) % c.capacity

/-- Below twice the modulus one subtraction is enough. -/
theorem mod_of_lt_two_mul {x m : Nat} (h : x < 2 * m) : x % m = if x < m then x else x - m := by
  split
  · next hlt => exact Nat.mod_eq_of_lt hlt
  · next hge => rw [Nat.mod_eq_sub_mod (not_lt.mp hge), Nat.mod_eq_of_lt (by omega)]

/-- The ring index of the position `w - n`, negative or not (R75). -/
theorem ringIndex_sub (c : Config) (d : DelayUnit) {n : Nat} (h : n ≤ c.capacity) :
    ringIndex c ((d.w : Int) - n) = slotOfAge c d n := by
  have hcast : ((d.w + c.capacity - n : Nat) : Int) = (d.w : Int) - n + c.capacity := by omega
  rw [ringIndex, slotOfAge, ← Int.add_emod_right, ← hcast, ← Int.natCast_emod, Int.toNat_natCast]

section
variable {c : Config} {d : DelayUnit} (hw : d.w < c.capacity)
include hw

theorem slotOfAge_eq (age : Nat) (h : age < c.capacity) : slotOfAge c d age =
    if age ≤ d.w then d.w - age else d.w + c.capacity - age := by
  rw [slotOfAge, mod_of_lt_two_mul (by omega)]
  split <;> split <;> omega

/-- The slot a tick stores to is that of age 0 alone. -/
theorem slotOfAge_eq_w_iff {age : Nat} (h : age < c.capacity) : slotOfAge c d age = d.w ↔ age = 0 := by
  rw [slotOfAge_eq hw age h]
  split <;> omega

/-- One tick later the same slots are one tick older. -/
theorem slotOfAge_delayAdvance (fs : Word) {age : Nat} (h : age < c.capacity) :
    slotOfAge c (delayAdvance c d fs) (age + 1) = slotOfAge c d age := by
  have hw' := mod_of_lt_two_mul (x := d.w + 1) (m := c.capacity) (by omega)
  rw [slotOfAge_eq hw age h, slotOfAge, delayAdvance_w, hw', mod_of_lt_two_mul (by split <;> omega)]
  split <;> split <;> split <;> omega

/-- After the store the sample of age 0 is the input, and every older one is as it was. -/
theorem readWord_storeInput (hwf : Memory.wf d.buf) (x : Word) {age : Nat} (h : age < c.capacity) :
    Memory.readWord (storeInput c d x).buf (slotOfAge c d age) =
      if age = 0 then x else Memory.readWord d.buf (slotOfAge c d age) := by
  rw [storeInput, memWrite_buf, ringIndex_ofNat c d.w hw]
  split
  · next hage =>
    rw [(slotOfAge_eq_w_iff hw h).mpr hage]
    exact Memory.readWord_writeWord_same _ _ _ hwf
  · next hage => exact Memory.readWord_writeWord_ne _ _ _ _ (mt (slotOfAge_eq_w_iff hw h).mp hage)

end

/-! ### The position and the read -/

/-- With depth 0 and a finite sine the modulation is a zero, so the position is `w - n` exactly. -/
theorem readPosition_integer {c : Config} {d : DelayUnit} {n : Nat} (hw : d.w ≤ 2 ^ 24)
    (hn : n ≤ 2 ^ 24) (hbase : d.base = F32.ofNat n) (hdepth : F32.isZero d.depth = true)
    (hsin : F32.isFinite (sin32 c (fmul c F32.twoPi32 d.lfoPhase)) = true) :
    F32.isFinite (readPosition c d) = true ∧
      F32.units (readPosition c d) = ((d.w : Int) - n) * 2 ^ 149 := by
  obtain ⟨hwFin, -, hwUnits⟩ := F32.ofNat_exact hw
  obtain ⟨hnFin, -, hnUnits⟩ := F32.ofNat_exact hn
  obtain ⟨hfin, hunits⟩ := F32.sub_integers_exact c.nanResult hwFin hnFin hwUnits hnUnits (by omega)
  have hzero : F32.isZero (fmul c d.depth (sin32 c (fmul c F32.twoPi32 d.lfoPhase))) = true :=
    F32.isZero_mul_left c.nanResult hdepth hsin
  have hposition := F32.sub_integers_exact c.nanResult hfin (F32.isZero_isFinite hzero) hunits
    (n := 0) (by rw [F32.units_eq_zero_iff.mpr hzero]; omega) (by omega)
  rw [sub_zero] at hposition
  rw [readPosition, hbase]
  exact hposition

/-- The corner case of R163 on a unit: the read gives the input for `n = 0` and else the word stored `n`
ticks before. -/
theorem readInterp_integerDelay {c : Config} {d : DelayUnit} {n : Nat} (hcap : c.log2Cap ≤ 24)
    (hwf : Memory.wf d.buf) (hw : d.w < c.capacity) (hn : n < c.capacity)
    (hbase : d.base = F32.ofNat n) (hdepth : F32.isZero d.depth = true)
    (hsin : F32.isFinite (sin32 c (fmul c F32.twoPi32 d.lfoPhase)) = true) (x : Word) :
    readInterp c (storeInput c d x) (readPosition c d) =
      if n = 0 then x else Memory.readWord d.buf (slotOfAge c d n) := by
  have hcapacity : c.capacity ≤ 2 ^ 24 := Nat.pow_le_pow_right two_pos hcap
  obtain ⟨hfin, hunits⟩ := readPosition_integer (by omega) (by omega) hbase hdepth hsin
  rw [readInterp_integer c _ hfin hunits, memRead, ringIndex_sub c d hn.le,
    readWord_storeInput hw hwf x hn]

end Sys2Proof.Machine

namespace Sys2Proof

open Machine

/-- Settles O29. -/
theorem dtickIntegerDelay : Obligations.DtickIntegerDelay := by
  intro rd u rs1 rs2 n s hu hcap hrings hn hbase hdepth hsin
  obtain ⟨hwf, -, hw⟩ := hrings u
  refine ⟨_, exec_dtick_inRange hu rd rs1 rs2, ?_⟩
  have hread := readInterp_integerDelay hcap hwf hw hn hbase hdepth hsin (s.readReg rs1)
  rw [dtickLeaves, readReg_writeReg_same, hread, slotOfAge, Config.capacity]

end Sys2Proof
end

section
/-! PROOFS. A line with its LFO at rest is a fixed-length delay (spec/43_chorus_delay.md R160, R163,
spec/70_reset_and_hazards.md R235): after every tick the slot of each age holds the input of that age. -/

namespace Sys2Proof.F32

/-- `+0` over a number that is not a zero is a zero, of either sign. -/
theorem isZero_div_zero (nan : Word) {v : Word} (hnum : isNaN v = false) (hv : isZero v = false) :
    isZero (div nan zero v) = true := by
  obtain hn | hinf | hfin := classes v
  · rw [hnum] at hn
    cases hn
  · rw [div_finite_inf nan (by decide) hinf]
    split <;> decide
  · rw [div_finite (by decide) hfin hv, show magUnits (mag zero) = 0 by decide, Nat.zero_mul, isZero,
      mag_round, roundMag_zero, decide_eq_true rfl]

/-- `+0` more than a zero of either sign is `+0`. -/
theorem add_zero_isZero (nan : Word) {v : Word} (h : isZero v = true) : add nan zero v = zero := by
  rw [add_eq_round nan (by decide) (isZero_isFinite h), units_eq_zero_iff.mpr h,
    show units zero + 0 = 0 by decide, if_pos rfl, show sign zero = false from rfl, Bool.false_and,
    Int.natAbs_zero, round, roundMag_zero]
  rfl

end Sys2Proof.F32

namespace Sys2Proof.Machine

/-- The store of a tick leaves the phase to the advance (R163). -/
theorem lfoPhase_tick (c : Config) (d : DelayUnit) (x fs : Word) :
    (delayAdvance c (storeInput c d x) fs).lfoPhase =
      wrapPhase c (fadd c d.lfoPhase (fdiv c d.lfoFreq fs)) := rfl

/-- At rest the LFO phase stays `+0` (R163, R165). -/
theorem wrapPhase_at_rest (c : Config) {fs : Word} (hnum : F32.isNaN fs = false)
    (hfs : F32.isZero fs = false) :
    wrapPhase c (fadd c F32.zero (fdiv c F32.zero fs)) = F32.zero := by
  rw [fadd, fdiv, F32.add_zero_isZero _ (F32.isZero_div_zero _ hnum hfs)]
  exact wrapPhase_of_lfoPhaseOk c lfoPhaseOk_zero

/-- At rest the sine is `+0` in every configuration (R15). -/
theorem sin32_at_rest (c : Config) : sin32 c (fmul c F32.twoPi32 F32.zero) = F32.zero := by
  have hmul : fmul c F32.twoPi32 F32.zero = F32.zero := by
    rw [fmul, F32.mul_finite (by decide) (by decide)]
    decide +kernel
  rw [hmul]
  rfl

/-- A line of base delay `n` whose LFO is at rest, and whose ring holds the inputs `past`, newest first:
the slot of each age holds the input of that age, and `+0` from before the first one. -/
structure FixedLine (c : Config) (n : Nat) (past : List Word) (d : DelayUnit) : Prop where
  wf : Memory.wf d.buf
  w_lt : d.w < c.capacity
  base : d.base = F32.ofNat n
  depth : d.depth = F32.zero
  lfoFreq : d.lfoFreq = F32.zero
  lfoPhase : d.lfoPhase = F32.zero
  samples : ∀ age < c.capacity, Memory.readWord d.buf (slotOfAge c d (age + 1)) = past.getD age F32.zero

/-- A line just restarted has no past (R160). -/
theorem fixedLine_restarted (c : Config) (n : Nat) : FixedLine c n [] ⟨[], 0, F32.ofNat n, 0, 0, 0⟩ where
  wf := ⟨.nil, fun _ h => absurd h List.not_mem_nil⟩
  w_lt := capacity_pos c
  base := rfl
  depth := rfl
  lfoFreq := rfl
  lfoPhase := rfl
  samples _ _ := Memory.readWord_nil _

section
variable {c : Config} {n : Nat} {past : List Word} {d : DelayUnit} (hd : FixedLine c n past d)
include hd

/-- After the store the slots hold the input and then the past, by age. -/
theorem FixedLine.readWord_storeInput (x : Word) {age : Nat} (h : age < c.capacity) :
    Memory.readWord (storeInput c d x).buf (slotOfAge c d age) = (x :: past).getD age F32.zero := by
  rw [Machine.readWord_storeInput hd.w_lt hd.wf x h]
  cases age with
  | zero => rfl
  | succ age => exact hd.samples age (by omega)

/-- A tick puts its input in front of the past. -/
theorem FixedLine.tick (x : Word) {fs : Word} (hnum : F32.isNaN fs = false)
    (hfs : F32.isZero fs = false) :
    FixedLine c n (x :: past) (delayAdvance c (storeInput c d x) fs) where
  wf := memWrite_wf c d _ x hd.wf
  w_lt := Nat.mod_lt _ (capacity_pos c)
  base := hd.base
  depth := hd.depth
  lfoFreq := hd.lfoFreq
  lfoPhase := by
    rw [lfoPhase_tick, hd.lfoPhase, hd.lfoFreq, wrapPhase_at_rest c hnum hfs]
  samples age h := by
    rw [slotOfAge_delayAdvance (d := storeInput c d x) hd.w_lt fs h]
    exact hd.readWord_storeInput x h

/-- A tick reads the sample of age `n`, its own input being the one of age 0. -/
theorem FixedLine.read (hcap : c.log2Cap ≤ 24) (hn : n < c.capacity) (x : Word) :
    readInterp c (storeInput c d x) (readPosition c d) = (x :: past).getD n F32.zero := by
  have hsin : F32.isFinite (sin32 c (fmul c F32.twoPi32 d.lfoPhase)) = true := by
    rw [hd.lfoPhase, sin32_at_rest]
    decide
  rw [readInterp_integerDelay hcap hd.wf hd.w_lt hn hd.base (by rw [hd.depth]; decide) hsin,
    ← Machine.readWord_storeInput hd.w_lt hd.wf x hn, hd.readWord_storeInput x hn]

end

/-! ### Frames: a sample to `rs1`, then DTICK (R235) -/

theorem dlyAt_dtickLeaves (s : State) (rd : Reg) (u : UnitIx) (x fs : Word) :
    (dtickLeaves s rd u x fs).dlyAt u =
      delayAdvance s.cfg (storeInput s.cfg (s.dlyAt u) x) fs := by
  rw [dtickLeaves, dlyAt_writeReg, dlyAt_setDly_same]

theorem readReg_dtickLeaves (s : State) (rd : Reg) (u : UnitIx) (x fs : Word) (r : Reg) :
    (dtickLeaves s rd u x fs).readReg r = if r = rd then
      readInterp s.cfg (storeInput s.cfg (s.dlyAt u) x) (readPosition s.cfg (s.dlyAt u))
      else s.readReg r := by
  rw [dtickLeaves, readReg_writeReg, readReg_setDly]

/-- The state one frame leaves. -/
def frameLeaves (rd : Reg) (u : UnitIx) (rs1 rs2 : Reg) (x : Word) (s : State) : State :=
  dtickLeaves (s.writeReg rs1 x) rd u x ((s.writeReg rs1 x).readReg rs2)

section
variable {rd : Reg} {u : UnitIx} {rs1 rs2 : Reg}

theorem tickAll_cons {s : State} (hu : u.toNat < s.cfg.numDelay) (x : Word) (xs : List Word) :
    tickAll rd u rs1 rs2 (x :: xs) s = tickAll rd u rs1 rs2 xs (frameLeaves rd u rs1 rs2 x s) := by
  have h : exec (.dtick rd u rs1 rs2) (s.writeReg rs1 x) = .next (frameLeaves rd u rs1 rs2 x s) := by
    rw [exec_dtick_inRange (by exact hu), readReg_writeReg_same, frameLeaves]
  rw [tickAll, h]

/-- What a run of frames finds before each of them: the unit is there, the sample rate is a number other
than zero, and the line holds the past. -/
structure FrameReady (u : UnitIx) (rs2 : Reg) (n : Nat) (past : List Word) (s : State) : Prop where
  unit : u.toNat < s.cfg.numDelay
  cap : s.cfg.log2Cap ≤ 24
  delay : n < s.cfg.capacity
  rate_num : F32.isNaN (s.readReg rs2) = false
  rate_ne : F32.isZero (s.readReg rs2) = false
  line : FixedLine s.cfg n past (s.dlyAt u)

/-- A frame outputs the input `n` samples before its own. -/
theorem FrameReady.output {n : Nat} {past : List Word} {s : State} (hs : FrameReady u rs2 n past s)
    (x : Word) : (frameLeaves rd u rs1 rs2 x s).readReg rd = (x :: past).getD n F32.zero := by
  rw [frameLeaves, readReg_dtickLeaves, if_pos rfl]
  exact hs.line.read hs.cap hs.delay x

variable (hrs1 : rs1 ≠ rs2) (hrd : rd ≠ rs2)
include hrs1 hrd

/-- A frame leaves the sample rate as it is and puts its input in front of the past. -/
theorem FrameReady.frame {n : Nat} {past : List Word} {s : State} (hs : FrameReady u rs2 n past s)
    (x : Word) : FrameReady u rs2 n (x :: past) (frameLeaves rd u rs1 rs2 x s) := by
  have hrate : (s.writeReg rs1 x).readReg rs2 = s.readReg rs2 := by
    rw [readReg_writeReg, if_neg hrs1.symm]
  have hkept : (frameLeaves rd u rs1 rs2 x s).readReg rs2 = s.readReg rs2 := by
    rw [frameLeaves, readReg_dtickLeaves, if_neg hrd.symm, hrate]
  refine ⟨hs.unit, hs.cap, hs.delay, hkept ▸ hs.rate_num, hkept ▸ hs.rate_ne, ?_⟩
  rw [frameLeaves, dlyAt_dtickLeaves, hrate]
  exact hs.line.tick x hs.rate_num hs.rate_ne

/-- The last output of a run of frames is the input `n` samples before its last. -/
theorem tickAll_fixedLine {n : Nat} (xs : List Word) :
    ∀ {x : Word} {past : List Word} {s : State}, FrameReady u rs2 n past s →
      ∃ t, tickAll rd u rs1 rs2 (x :: xs) s = .next t ∧
        t.readReg rd = ((x :: xs).reverse ++ past).getD n F32.zero := by
  induction xs with
  | nil => exact fun {x _ _} hs => ⟨_, tickAll_cons hs.unit x [], hs.output x⟩
  | cons y ys ih =>
    intro x past s hs
    obtain ⟨t, hrun, hout⟩ := ih (x := y) (hs.frame hrs1 hrd x)
    refine ⟨t, (tickAll_cons hs.unit x _).trans hrun, ?_⟩
    rw [hout, List.reverse_cons (a := x), List.append_assoc, List.singleton_append]

end

end Sys2Proof.Machine

namespace Sys2Proof

open Machine

/-- Settles O30: at the restart the past is empty, so what is older than the first input is `+0.0`. -/
theorem fixedDelayLine : Obligations.FixedDelayLine := by
  intro rd u rs1 rs2 n xs s hu hcap hn hrs1 hrd hline hnum hne hxs
  have hready : FrameReady u rs2 n [] s :=
    ⟨hu, hcap, hn, hnum, hne, hline ▸ fixedLine_restarted s.cfg n⟩
  obtain ⟨x, xs, rfl⟩ := List.exists_cons_of_ne_nil hxs
  obtain ⟨t, hrun, hout⟩ := tickAll_fixedLine hrs1 hrd xs (x := x) hready
  refine ⟨t, hrun, ?_⟩
  rw [hout, List.append_nil]
  split
  · next hlt => exact List.getD_eq_default _ _ (by simp at hlt ⊢; omega)
  · next hge => rw [List.getD_reverse _ (by simp at hge ⊢; omega)]; rfl

end Sys2Proof
end

section
/-! PROOFS. The parameter mapper (spec/44_parameter_mapper.md R180 to R183): the three commands, the
clamp, and the endpoints of the crossfade, where one product is a zero and the other its own operand. -/

namespace Sys2Proof.F32

/-- A pattern is its sign and its magnitude. -/
theorem eq_of_sign_of_mag {a b : Word} (hs : sign a = sign b) (hm : mag a = mag b) : a = b := by
  refine BitVec.eq_of_toNat_eq ?_
  have ha := a.isLt
  have hb := b.isLt
  rw [sign, sign, BitVec.msb_eq_decide, BitVec.msb_eq_decide, decide_eq_decide] at hs
  rw [mag, mag] at hm
  omega

theorem lt_eq_true_iff {a b : Word} :
    lt a b = true ↔ isNaN a = false ∧ isNaN b = false ∧ units a < units b := by
  simp [lt, and_assoc]

theorem le_eq_true_iff {a b : Word} :
    le a b = true ↔ isNaN a = false ∧ isNaN b = false ∧ units a ≤ units b := by
  simp [le, and_assoc]

theorem representable_units {v : Word} (h : isFinite v = true) : Representable (units v).natAbs :=
  ⟨mag v, of_decide_eq_true h, (natAbs_units v).symm⟩

section
variable (nan : Word) {a z : Word}

/-- Every number times 1.0 is that number, its sign kept. -/
theorem mul_one_eq_self (ha : isNaN a = false) : mul nan a one = a := by
  have hsign : sign one = false := rfl
  obtain hn | hinf | hfin := classes a
  · rw [ha] at hn
    cases hn
  · have hmag : mag a = 0x7F800000 := of_decide_eq_true hinf
    rw [mul_inf nan ha (by decide) (.inl hinf) (isInf_not_isZero hinf) (by decide), hsign]
    refine eq_of_sign_of_mag ?_ ?_
    · cases sign a <;> rfl
    · rw [hmag]
      cases sign a <;> rfl
  · obtain ⟨-, hunits⟩ := mul_exact nan hfin (b := one) (by decide) (representable_units hfin)
      (by rw [units_one])
    have hmag : magUnits (mag (mul nan a one)) = magUnits (mag a) := by
      rw [← natAbs_units, ← natAbs_units, hunits]
    refine eq_of_sign_of_mag ?_ (magUnits_strictMono.injective hmag)
    rw [mul_finite hfin (by decide), sign_round, hsign, Bool.bne_false]

theorem mul_swap (a b : Word) : mul nan a b = mul nan b a := by
  rw [mul, mul, Bool.or_comm (isNaN a), Bool.or_comm (isInf a), Bool.or_comm (isZero a),
    bne_comm (a := sign a), Nat.mul_comm]

/-- A finite value times a zero of either sign is a zero. -/
theorem isZero_mul_right (ha : isFinite a = true) (hz : isZero z = true) :
    isZero (mul nan a z) = true := by
  rw [mul_swap]
  exact isZero_mul_left nan hz ha

/-- A sum that is worth a finite pattern compares equal to it. -/
theorem eq_add_of_units {b v : Word} (ha : isFinite a = true) (hb : isFinite b = true)
    (hv : isFinite v = true) (h : units a + units b = units v) : eq (add nan a b) v = true := by
  have hround := roundsTo_add nan ha hb
  rw [h] at hround
  obtain ⟨hfin, hunits⟩ := RoundsTo.exact one_pos (by rwa [Nat.cast_one, mul_one])
    (representable_units hv)
  exact (eq_iff (isFinite_not_isNaN hfin) (isFinite_not_isNaN hv)).mpr hunits

/-- A number more than a zero, in either order, compares equal to that number (R9, R12). -/
theorem eq_add_isZero (ha : isNaN a = false) (hz : isZero z = true) :
    eq (add nan a z) a = true ∧ eq (add nan z a) a = true := by
  have hzfin := isZero_isFinite hz
  have hzero := units_eq_zero_iff.mpr hz
  obtain hn | hinf | hfin := classes a
  · rw [ha] at hn
    cases hn
  · rw [add_inf_finite nan hinf hzfin, add_finite_inf nan hzfin hinf]
    exact ⟨(eq_iff ha ha).mpr rfl, (eq_iff ha ha).mpr rfl⟩
  · exact ⟨eq_add_of_units nan hfin hzfin hfin (by rw [hzero, add_zero]),
      eq_add_of_units nan hzfin hfin hfin (by rw [hzero, zero_add])⟩

theorem sub_one_zero : sub nan one zero = one := by
  rw [sub, add_eq_round nan (by decide) (by decide)]
  decide +kernel

theorem sub_one_one : sub nan one one = zero := by
  rw [sub, add_eq_round nan (by decide) (by decide)]
  decide +kernel

end

end Sys2Proof.F32

namespace Sys2Proof.Machine

/-! ### The commands -/

/-- The register after `r`, modulo 16 (R81). -/
theorem nextReg_eq (r : Reg) : nextReg r = BitVec.ofNat 4 ((r.toNat + 1) % 16) :=
  BitVec.eq_of_toNat_eq (by simp [nextReg])

section
variable (rd rs1 rs2 rs3 : Reg) (s : State)

theorem exec_rescale : exec (.rescale rd rs1 rs2 rs3) s = .next (s.writeReg rd
    (linearRescale s.cfg (s.readReg rs1) (s.readReg rs2) (s.readReg (nextReg rs2))
      (s.readReg rs3) (s.readReg (nextReg rs3)))) := rfl

theorem exec_resolve : exec (.resolve rd rs1 rs2 rs3) s = .next (s.writeReg rd
    (resolveControl s.cfg (s.readReg rs1) (s.readReg rs2) (s.readReg rs3))) := rfl

theorem exec_xfade : exec (.xfade rd rs1 rs2 rs3) s = .next (s.writeReg rd
    (crossfade s.cfg (s.readReg rs1) (s.readReg rs2) (s.readReg rs3))) := rfl

end

/-! ### The clamp (R181) -/

section
variable {q : Word}

theorem clamp01_of_nan_or_negative (h : F32.isNaN q = true ∨ F32.lt q F32.zero = true) :
    clamp01 q = F32.zero := by
  rw [clamp01, if_pos (Bool.or_eq_true_iff.mpr h)]

theorem clamp01_of_above_one (h : F32.lt F32.one q = true) : clamp01 q = F32.one := by
  obtain ⟨-, hnum, hone⟩ := F32.lt_eq_true_iff.mp h
  have hle : F32.units F32.zero ≤ F32.units F32.one := by decide +kernel
  have hlow : F32.lt q F32.zero = false := by
    rw [Bool.eq_false_iff, ne_eq, F32.lt_iff hnum (by decide)]
    omega
  rw [clamp01, hnum, hlow, if_neg (by decide), F32.gt, if_pos h]

theorem clamp01_of_mem (hlow : F32.le F32.zero q = true) (hhigh : F32.le q F32.one = true) :
    clamp01 q = q := by
  obtain ⟨-, hnum, hlow⟩ := F32.le_eq_true_iff.mp hlow
  obtain ⟨-, -, hhigh⟩ := F32.le_eq_true_iff.mp hhigh
  have hzero : F32.lt q F32.zero = false := by
    rw [Bool.eq_false_iff, ne_eq, F32.lt_iff hnum (by decide)]
    omega
  have hone : F32.gt q F32.one = false := by
    rw [Bool.eq_false_iff, ne_eq, F32.gt_iff hnum (by decide)]
    omega
  rw [clamp01, hnum, hzero, hone]
  rfl

/-- The three clauses of R181 cover every pattern. -/
theorem clamp_clauses (q : Word) : (F32.isNaN q = true ∨ F32.lt q F32.zero = true) ∨
    F32.lt F32.one q = true ∨ (F32.le F32.zero q = true ∧ F32.le q F32.one = true) := by
  cases hnum : F32.isNaN q with
  | true => exact .inl (.inl rfl)
  | false =>
    rw [F32.lt_iff hnum (by decide), F32.lt_iff (by decide) hnum, F32.le_iff (by decide) hnum,
      F32.le_iff hnum (by decide)]
    omega

/-- What the clamp answers is a number of [0, 1], never a NaN. -/
theorem clamp01_mem (q : Word) :
    F32.le F32.zero (clamp01 q) = true ∧ F32.le (clamp01 q) F32.one = true := by
  obtain hlow | hhigh | ⟨hlow, hhigh⟩ := clamp_clauses q
  · rw [clamp01_of_nan_or_negative hlow]
    decide +kernel
  · rw [clamp01_of_above_one hhigh]
    decide +kernel
  · rw [clamp01_of_mem hlow hhigh]
    exact ⟨hlow, hhigh⟩

end

/-! ### The endpoints of the crossfade (R183) -/

section
variable (c : Config) {dry wet : Word}

/-- At a wet fraction of 0 the crossfade is a zero and `dry`. -/
theorem crossfade_zero (hdry : F32.isNaN dry = false) :
    crossfade c dry wet F32.zero = fadd c (fmul c wet F32.zero) dry := by
  rw [crossfade, fsub, F32.sub_one_zero, fmul, fmul, F32.mul_one_eq_self c.nanResult hdry]

/-- At a wet fraction of 1 the crossfade is `wet` and a zero. -/
theorem crossfade_one (hwet : F32.isNaN wet = false) :
    crossfade c dry wet F32.one = fadd c wet (fmul c dry F32.zero) := by
  rw [crossfade, fsub, F32.sub_one_one, fmul, fmul, F32.mul_one_eq_self c.nanResult hwet]

end

end Sys2Proof.Machine

namespace Sys2Proof

open Machine

/-- Settles O34: one product is a zero and the other its own operand, so the sum has that operand's
value. -/
theorem xfadeEndpoints : Obligations.XfadeEndpoints := by
  intro c dry wet hdry hwet
  refine ⟨fun hfin => ?_, fun hfin => ?_⟩
  · obtain ⟨-, heq⟩ := F32.eq_add_isZero c.nanResult hdry
      (F32.isZero_mul_right c.nanResult hfin (z := F32.zero) rfl)
    exact crossfade_zero c hdry ▸ heq
  · obtain ⟨heq, -⟩ := F32.eq_add_isZero c.nanResult hwet
      (F32.isZero_mul_right c.nanResult hfin (z := F32.zero) rfl)
    exact crossfade_one c hwet ▸ heq

/-- Settles O31: the second register of each pair is the next one modulo 16. -/
theorem rescaleMapsRange : Obligations.RescaleMapsRange := by
  intro rd rs1 rs2 rs3 s after
  rw [exec_rescale, nextReg_eq, nextReg_eq, linearRescale]

/-- Settles O32. -/
theorem resolveAndXfadeCompute : Obligations.ResolveAndXfadeCompute := by
  intro rd rs1 rs2 rs3 s
  rw [exec_resolve, exec_xfade, resolveControl, crossfade, F32.one]
  exact ⟨rfl, rfl⟩

/-- Settles O33: the clamp's own three clauses, and the interval from their covering every pattern. -/
theorem clamp01InUnitInterval : Obligations.Clamp01InUnitInterval := by
  intro q
  obtain ⟨hlow, hhigh⟩ := clamp01_mem q
  exact ⟨hlow, hhigh, clamp01_of_nan_or_negative, clamp01_of_above_one, clamp01_of_mem⟩

end Sys2Proof
end

section
/-! PROOFS. The register moves (spec/45_register_moves.md R190 to R193): each writes one register at
most. -/

namespace Sys2Proof.Machine

theorem exec_nop (s : State) : exec .nop s = .next s := rfl

theorem exec_mov (rd rs1 : Reg) (s : State) :
    exec (.mov rd rs1) s = .next (s.writeReg rd (s.readReg rs1)) := rfl

theorem writeReg_readReg (s : State) (i : Reg) : s.writeReg i (s.readReg i) = s := by
  have h : setSlot s.regs i (slot s.regs i) = s.regs := Vector.set_getElem_self _
  rw [State.writeReg, State.readReg, h]

/-- ORLO's word by halves: the zero-extended immediate has zeros above, which keep the upper half
(R192). -/
theorem or_zext32_eq_append (x : Word) (imm16 : BitVec 16) :
    x ||| zext32 imm16 = x.extractLsb' 16 16 ++ (x.extractLsb' 0 16 ||| imm16) := by
  have hzext : zext32 imm16 = 0#16 ++ imm16 := BitVec.setWidth_eq_append (by decide)
  calc x ||| zext32 imm16
    _ = (x.extractLsb' 16 16 ++ x.extractLsb' 0 16) ||| (0#16 ++ imm16) := by
      rw [halves_append, hzext]
    _ = (x.extractLsb' 16 16 ||| 0#16) ++ (x.extractLsb' 0 16 ||| imm16) := BitVec.or_append
    _ = x.extractLsb' 16 16 ++ (x.extractLsb' 0 16 ||| imm16) := by rw [BitVec.or_zero]

end Sys2Proof.Machine

namespace Sys2Proof

open Machine

/-- Settles O3: the word written is the old upper half above the old lower half or-ed with the
immediate. -/
theorem orloSetsLowerBits : Obligations.OrloSetsLowerBits := by
  intro rd imm16 s
  refine ⟨s.readReg rd ||| zext32 imm16, exec_orlo rd imm16 s, ?_, ?_⟩
  · rw [or_zext32_eq_append, BitVec.extractLsb'_append_eq_left]
  · rw [or_zext32_eq_append, BitVec.extractLsb'_append_eq_right]

/-- Settles O4: with `rd = rs1` the word written is the one already there. -/
theorem movCopiesPattern : Obligations.MovCopiesPattern := by
  intro rd rs1 s
  have hself : exec (.mov rd rd) s = .next s := by rw [exec_mov, writeReg_readReg]
  exact ⟨exec_mov rd rs1 s, hself⟩

/-- Settles O1. -/
theorem nopChangesNothing : Obligations.NopChangesNothing := exec_nop

/-- Settles O2: `upperHalf` is the immediate above sixteen zeros. -/
theorem luihLoadsUpperHalf : Obligations.LuihLoadsUpperHalf := by
  intro rd imm16 s
  rw [exec_luih, upperHalf]

end Sys2Proof
end

section
/-! PROOFS. A word written to CMD is rejected with its cause and has no other effect, or is executed,
and while ERR is set neither reaches the error record (spec/60_exceptions.md R201 to R207). -/

namespace Sys2Proof

/-- A word is rejected by the decoder, or because the unit that its command names is out of range. -/
theorem rejection_eq_some {c : Config} {w : Word} {cause : Cause} (h : rejection c w = some cause) :
    decode w = .illegal cause ∨
      ∃ i, decode w = .ok i ∧ unitInRange c i = false ∧ cause = .unitRange := by
  unfold rejection at h
  split at h
  · next hd =>
    cases h
    exact .inl hd
  · next i hd =>
    split at h
    · cases h
    · next hr =>
      cases h
      exact .inr ⟨i, hd, by simpa using hr, rfl⟩

/-- A word that is not rejected decodes to a command with its unit in range. -/
theorem rejection_eq_none {c : Config} {w : Word} (h : rejection c w = none) :
    ∃ i, decode w = .ok i ∧ unitInRange c i = true := by
  unfold rejection at h
  split at h
  · cases h
  · next i hd =>
    split at h
    · next hr => exact ⟨i, hd, hr⟩
    · cases h

end Sys2Proof

namespace Sys2Proof.Machine

/-- Whichever of the four checks fails (R92), the exception is taken with the word that was written: an
out-of-range command records its own encoding, which is the word it was decoded from. -/
theorem command_rejected {w : Word} {cause : Cause} {s : State} (h : rejection s.cfg w = some cause) :
    command w s = .next (raiseIllegal cause w s) := by
  obtain hd | ⟨i, hd, hr, rfl⟩ := rejection_eq_some h
  · exact command_illegal hd s
  · rw [command_ok hd, exec_outOfRange hr, encodeDecodeAgree w i hd]

/-- A record there is stays (R202). -/
theorem raiseIllegal_of_err {s : State} (h : s.err = true) (cause : Cause) (w : Word) :
    raiseIllegal cause w s = s := if_pos h

end Sys2Proof.Machine

namespace Sys2Proof

open Machine

/-- Settles O47: the write to CMD takes the exception on the state the transaction left. -/
theorem rejectedWordIsRecorded : Obligations.RejectedWordIsRecorded := by
  intro s w rest cause hport hrej
  obtain ⟨-, hwrite, -⟩ := stepServesOldestTransaction s
  exact (hwrite _ w rest hport).trans (command_rejected hrej)

/-- Settles O49: a rejected word finds a record there is, and a command with its unit in range does not
reach the record. -/
theorem commandsKeepRecordedError : Obligations.CommandsKeepRecordedError := by
  intro s t w herr h
  cases hrej : rejection s.cfg w with
  | some cause =>
    rw [command_rejected hrej, raiseIllegal_of_err herr] at h
    cases h
    exact ⟨herr, rfl, rfl⟩
  | none =>
    obtain ⟨i, hd, hr⟩ := rejection_eq_none hrej
    rw [command_ok hd] at h
    obtain ⟨-, -, hrecord⟩ := commandWritesOnlyItsRegister i s t h
    obtain ⟨herr', hcause, hcmd⟩ := hrecord ((unitInRange_eq_wellFormed s.cfg i).symm.trans hr)
    exact ⟨herr'.trans herr, hcause, hcmd⟩

end Sys2Proof
end

section
/-! PROOFS. From wrapped phases no step stops (spec/60_exceptions.md R200, R203,
spec/42_oscillator_bank.md R141): the phase loop of OSCSTEP is the only thing that could, and it ends. -/

namespace Sys2Proof.Machine

theorem withUnit_answers (i : Instr) (s t' : State) : ∃ t, withUnit i s (.next t') = .next t := by
  cases hr : unitInRange s.cfg i with
  | true => exact ⟨_, withUnit_inRange hr⟩
  | false => exact ⟨_, withUnit_outOfRange hr⟩

section
variable {s : State} (hnan : F32.isNaN s.cfg.nanResult = true)
  (hosc : ∀ j : UnitIx, phaseOk (s.oscAt j).phase)
include hnan hosc

/-- OSCSTEP from a wrapped phase: its loop ends (R141). -/
theorem execOscstep_answers (u : UnitIx) (rs1 : Reg) : ∃ t, execOscstep u rs1 s = .next t := by
  rw [execOscstep, phaseAfter_of_phaseOk hnan (hosc u)]
  exact withUnit_answers _ _ _

theorem exec_answers (i : Instr) : ∃ t, exec i s = .next t := by
  cases i
  case oscstep u rs1 => exact execOscstep_answers hnan hosc u rs1
  case nop | luih | orlo | mov | rescale | resolve | xfade => exact ⟨_, rfl⟩
  all_goals exact withUnit_answers _ _ _

theorem command_answers (w : Word) : ∃ t, command w s = .next t := by
  cases hd : decode w with
  | ok i => exact command_ok hd s ▸ exec_answers hnan hosc i
  | illegal cause => exact ⟨_, command_illegal hd s⟩

theorem hostWrite_answers (a : BitVec 8) (d : Word) : ∃ t, hostWrite a d s = .next t := by
  obtain ⟨-, e⟩ | ⟨-, -, e⟩ | ⟨-, e⟩ | ⟨-, -, e⟩ | e := hostWrite_cases a d s
  case inr.inr.inl => exact e ▸ command_answers hnan hosc d
  all_goals exact ⟨_, e⟩

/-- Taking the transaction off the port leaves the parameters and the phases as they were. -/
theorem step_answers : ∃ t, step s = .next t := by
  obtain ⟨hread, hwrite, hidle⟩ := stepServesOldestTransaction s
  cases hp : s.port with
  | nil => exact ⟨s, hidle hp⟩
  | cons txn rest =>
    cases txn with
    | read a => exact ⟨_, hread a rest hp⟩
    | write a d =>
      rw [hwrite a d rest hp]
      exact hostWrite_answers (s := takeTxn rest s) hnan hosc a d

end

end Sys2Proof.Machine

namespace Sys2Proof

open Machine

/-- Settles O59: the wrapped oscillator phases let every transaction answer, and a step keeps the
parameters. -/
theorem stepNeverStops : Obligations.StepNeverStops := by
  rintro s hnan ⟨hosc, -⟩
  obtain ⟨t, h⟩ := step_answers hnan hosc
  exact ⟨t, h, step_keeps (keptByEach_cfg s.cfg) rfl h⟩

end Sys2Proof
end

section
/-! PROOFS. Reset (spec/70_reset_and_hazards.md R230 to R232, spec/10_state.md R36): what each unit holds
after it, and the invariants it starts from. -/

namespace Sys2Proof.Machine

theorem hostWrite_reset_set {d : Word} (hd : d.getLsbD 0 = true) (s : State) :
    hostWrite resetAddr d s = .next (resetBlock s) := by
  rw [hostWrite_reset, if_pos hd]

/-! ### The units after the reset action -/

@[simp] theorem resetBlock_readReg (s : State) (r : Reg) : (resetBlock s).readReg r = 0x00000000#32 :=
  resetOf_readReg s.cfg r
@[simp] theorem resetBlock_svfAt (s : State) (k : UnitIx) : (resetBlock s).svfAt k = SvfUnit.reset :=
  resetOf_svfAt s.cfg k
@[simp] theorem resetBlock_oscAt (s : State) (j : UnitIx) : (resetBlock s).oscAt j = OscUnit.reset :=
  resetOf_oscAt s.cfg j
@[simp] theorem resetBlock_dlyAt (s : State) (k : UnitIx) : (resetBlock s).dlyAt k = DelayUnit.reset :=
  resetOf_dlyAt s.cfg k
theorem resetBlock_pinkAt (s : State) (k : UnitIx) :
    (resetBlock s).pinkAt k = PinkUnit.reset s.cfg k.toNat :=
  resetOf_pinkAt s.cfg k

/-- No unit's reset seed is the zero that seeding replaces: a four-bit number differs from
`0x9E3779B9` (R36, R123). -/
theorem resetSeed_ne_zero (k : UnitIx) : defaultSeed ^^^ BitVec.ofNat 32 k.toNat ≠ 0#32 := by
  intro h
  have heq : defaultSeed = BitVec.ofNat 32 k.toNat := BitVec.xor_eq_zero_iff.mp h
  have hnat : 0x9E3779B9 = k.toNat % 2 ^ 32 := by
    simpa [defaultSeed] using congrArg BitVec.toNat heq
  have hk : k.toNat < 16 := k.isLt
  omega

/-- Seeding with a nonzero seed, field by field: five generator words, a tap from each (R123). -/
theorem seedPink_of_ne_zero (c : Config) (p : PinkUnit) {seed : Word} (h : seed ≠ 0#32) :
    let r1 := xorshift32 seed
    let r2 := xorshift32 r1
    let r3 := xorshift32 r2
    let r4 := xorshift32 r3
    let r5 := xorshift32 r4
    seedPink c p seed =
      { count := 0#5
        taps := #v[tapValue c r1, tapValue c r2, tapValue c r3, tapValue c r4, tapValue c r5]
        rng := r5 } := by
  have htaps := seedPink_taps c p seed
  have hrng := seedPink_rng c p seed
  rw [if_neg h] at htaps hrng
  exact PinkUnit.ext_fields (seedPink_count c p seed) htaps hrng

/-! ### The invariants at reset, in every configuration -/

theorem resetOf_recordOk (c : Config) : recordOk (State.resetOf c) := ⟨rfl, rfl⟩

theorem resetOf_ringsOk (c : Config) : ringsOk (State.resetOf c) := by
  rw [ringsOk_iff]
  intro k
  rw [resetOf_dlyAt]
  exact ringOk_of_empty _ rfl rfl

theorem resetOf_generatorsOk (c : Config) : generatorsOk (State.resetOf c) := by
  intro k
  rw [resetOf_pinkAt]
  exact seedPink_rng_ne_zero c _ _

theorem resetOf_phasesOk (c : Config) : phasesOk (State.resetOf c) := by
  refine ⟨fun j => ?_, fun k => ?_⟩
  · rw [resetOf_oscAt]
    exact phaseOk_zero
  · rw [resetOf_dlyAt]
    exact lfoPhaseOk_zero

end Sys2Proof.Machine

namespace Sys2Proof

open Machine

theorem reference_legal : Config.reference.Legal := by decide

/-- Settles O53: the write is the reset action, and no reset seed is replaced. -/
theorem resetWriteResetsEverything : Obligations.ResetWriteResetsEverything := fun _ s hd =>
  ⟨resetBlock s, hostWrite_reset_set hd s, resetBlock_cfg s, resetBlock_port s, resetBlock_readReg s,
    resetBlock_err s, resetBlock_cause s, resetBlock_errCmd s, resetBlock_svfAt s, resetBlock_oscAt s,
    resetBlock_dlyAt s,
    fun k => (resetBlock_pinkAt s k).trans (seedPink_of_ne_zero s.cfg _ (resetSeed_ne_zero k))⟩

/-- Settles O60. -/
theorem resetMeetsInvariants : Obligations.ResetMeetsInvariants :=
  ⟨fun c => ⟨resetOf_recordOk c, resetOf_ringsOk c, resetOf_generatorsOk c, resetOf_phasesOk c⟩,
    rfl, reference_legal⟩

end Sys2Proof
end
